-- ==== Sys2Proof/Word.lean ====
section
/-! DEFINITION. The widths of the block (spec 00_scope.md R6, 30_encoding.md R40): bytes, operation
codes, command words. Bit 0 is the least significant bit (00_scope.md section 7). -/

namespace Sys2Proof

/-- `u8`: an input datum, a response, the register `STATE` (R6). -/
abbrev Byte := BitVec 8

/-- `u2`: the operation code `cmd[9:8]` (R40). -/
abbrev OpCode := BitVec 2

/-- The command word `cmd[9:0] = op, data` (R40). -/
abbrev CmdWord := BitVec 10

end Sys2Proof
end

