-- ==== Sys2Proof/Machine/Operands.lean ====
section
/-! DEFINITION. The fields of the command word and the one operand form of the block
(spec 30_encoding.md R40, R52): no registers, no immediates but the input byte, no addressing modes. -/

namespace Sys2Proof.Machine

/-- `op = cmd[9:8]` (R40). -/
def opField (w : CmdWord) : OpCode := w.extractLsb' 8 2

/-- `data = cmd[7:0]` (R40). -/
def dataField (w : CmdWord) : Byte := w.extractLsb' 0 8

/-- The operand of UPDATE: the data field as an unsigned byte, exactly as presented (R52). -/
def updateOperand (w : CmdWord) : Byte := dataField w

end Sys2Proof.Machine
end

