-- ==== Sys2Proof/Syntax.lean ====
section
/-! DEFINITION. The commands (spec 30_encoding.md R45), one constructor a row of the opcode table. -/

namespace Sys2Proof

/-- The four commands. Only UPDATE has an operand (R52); the ignored data field of the others (R49)
is no part of the instruction. The first constructor is INITIALIZE. -/
inductive Instr where
  /-- INITIALIZE: `op = 0b00` (R64). -/
  | init
  /-- UPDATE b: `op = 0b01`, `b = cmd[7:0]` (R65). -/
  | update (b : Byte)
  /-- DIGEST: `op = 0b10` (R66). -/
  | digest
  /-- RESET: `op = 0b11` (R67). Not the hardware reset event. -/
  | reset
deriving DecidableEq, Repr

end Sys2Proof
end

