-- ==== Sys2Proof/Decode.lean ====
section
/-! DEFINITION. The decoder and the encoder of the command word (spec 30_encoding.md R40, R45, R49,
R50, R52). In the command space nothing is illegal (R50): the decoder is total and refuses nothing. -/

namespace Sys2Proof

/-- The instruction of a command word, by its operation code (R45). The data field is dropped but
for UPDATE (R49, R52). The four codes are all there are, so the last case is `op = 0b11`. -/
def decode (w : CmdWord) : Instr :=
  if Machine.opField w = 0b00 then .init
  else if Machine.opField w = 0b01 then .update (Machine.updateOperand w)
  else if Machine.opField w = 0b10 then .digest
  else .reset

/-- One row of the opcode map: `w` selects it when `w & mask = match` (R45). -/
structure OpRow where
  pattern : CmdWord
  mask    : CmdWord
deriving DecidableEq, Repr

/-- The row of the opcode map (R45) that holds the words of an instruction. -/
def rowOf : Instr → OpRow
  | .init => { pattern := 0x000, mask := 0x300 }
  | .update _ => { pattern := 0x100, mask := 0x300 }
  | .digest => { pattern := 0x200, mask := 0x300 }
  | .reset => { pattern := 0x300, mask := 0x300 }

/-- The opcode map, complete (R45). -/
def opcodeMap : List OpRow := [rowOf .init, rowOf (.update 0), rowOf .digest, rowOf .reset]

/-- `w` selects the row (R45). -/
def OpRow.selects (r : OpRow) (w : CmdWord) : Bool := w &&& r.mask == r.pattern

/-- The word an instruction assembles to (R53): the ignored field is 0x00 (R49). -/
def encode : Instr → CmdWord
  | .init => 0x000
  | .update b => 0x100 ||| b.setWidth 10
  | .digest => 0x200
  | .reset => 0x300

/-- The instruction read from the bits `w` of a table row. The table's word has 10 bits (R40); in
whole bytes the bits above them are 0, and a number that sets one of them is no command word (log
14). `nbits` gives no further information: the format has one length (R40). -/
def decodeTableWord (_nbits w : Nat) : Option Instr :=
  if w < 1024 then some (decode (BitVec.ofNat 10 w)) else none

end Sys2Proof
end

