-- ==== Sys2Proof/Machine/Accumulators.lean ====
section
/-! DEFINITION. The sum and XOR accumulators (spec 43_accumulators.md). -/

namespace Sys2Proof.Machine

/-- 8-bit addition, the carry out of bit 7 is discarded (R121). -/
def sumUpdate (s b : Byte) : Byte := s + b

/-- Bitwise XOR (R124). -/
def xorUpdate (s b : Byte) : Byte := s ^^^ b

end Sys2Proof.Machine
end

