-- ==== Sys2Proof/Config.lean ====
section
/-! DEFINITION. What is fixed for the life of an instance (spec 00_scope.md R7, R8; 10_state.md R14,
R15), the records of the variant table (42_variant_table.md R100), and the three parameter sets the
spec leaves open. -/

namespace Sys2Proof

/-- `P.ALG`: which update and digest rule the instance is bound to (R7). -/
inductive Alg where
  | crc8
  | sum
  | xor
deriving DecidableEq, Repr, Inhabited

/-- The five numbers of an `AlgorithmConfig` that reach the hardware (R7). Every value is legal. -/
structure CrcParams where
  poly   : Byte
  init   : Byte
  refin  : Bool
  refout : Bool
  xorout : Byte
deriving DecidableEq, Repr, Inhabited

/-- `Params`: the parameter record of an instance (R7; 10_state.md section 9). `NAME` and `CHECK`
are metadata outside the step function and stand in `Cfg`. -/
structure Params extends CrcParams where
  alg : Alg
deriving DecidableEq, Repr, Inhabited

/-- `CFG`, one row of the variant table: the source's `AlgorithmConfig` with its name and its
reference check value (R7; 42_variant_table.md R100). -/
structure Cfg extends CrcParams where
  name  : String
  check : Byte
deriving DecidableEq, Repr

/-- `CFG_ATM`, `CFG_ETSI`, `CFG_SMBUS` (R8): the numbers the source does not give. `CHECK` is no
field: it is determined by the other five (42_variant_table.md R106, R107; log 6). -/
structure OpenRows where
  atm   : CrcParams
  etsi  : CrcParams
  smbus : CrcParams
deriving DecidableEq, Repr, Inhabited

/-- The open numbers of this implementation's table: free, nothing can be proved of them (R8, R106:
"This spec does not guess"; log 6). Statements take an argument `o : OpenRows` in its place. -/
opaque Config.openRows : OpenRows

/-- The instance that `State.reset` stands for. DESIGN CHOICE, unsafe (log 2): the spec gives `P` no
value (10_state.md R15); these are the numbers of row CRC-8 (42_variant_table.md R101). -/
def Config.resetParams : Params :=
  { alg := .crc8, poly := 0x07, init := 0x00, refin := false, refout := false, xorout := 0x00 }

end Sys2Proof
end

