-- ==== Sys2Proof/Machine/Crc8.lean ====
section
/-! DEFINITION. The generic CRC-8 engine (spec 41_crc8_engine.md): bit reflection, the register
update, the digest, and beside them the two equivalent forms the spec describes (lookup table, R88;
right-shifting register, R91). The model runs the bit-level definition. -/

namespace Sys2Proof.Machine

/-- Full 8-bit reversal: bit `i` of the result is bit `7 - i` of the argument (R80). -/
def reflect8 (v : Byte) : Byte :=
  BitVec.ofBoolListBE
    [v.getLsbD 0, v.getLsbD 1, v.getLsbD 2, v.getLsbD 3,
     v.getLsbD 4, v.getLsbD 5, v.getLsbD 6, v.getLsbD 7]

/-- Reverse the byte if the flag says so: the input rule of R83 (2a) and the output rule of R85. -/
def reflectIf (flag : Bool) (v : Byte) : Byte := if flag then reflect8 v else v

/-- `shl1_8`: `(2 * r) mod 256`, bit 7 is discarded (R82). -/
def shl1 (r : Byte) : Byte := r <<< 1

/-- One shift step (R82): the test is on bit 7 before the shift, the XOR after it. -/
def crcShift (poly r : Byte) : Byte :=
  if r.getLsbD 7 then shl1 r ^^^ poly else shl1 r

/-- Eight shift steps in a row (R82). -/
def crcShift8 (poly r : Byte) : Byte := (crcShift poly)^[8] r

/-- The effect of UPDATE b on the register of a CRC8 instance (R83). -/
def crcUpdate (c : CrcParams) (s b : Byte) : Byte :=
  crcShift8 c.poly (s ^^^ reflectIf c.refin b)

/-- The value DIGEST returns for register `s` of a CRC8 instance: reflect first, XOR last (R85). -/
def crcDigest (c : CrcParams) (s : Byte) : Byte :=
  reflectIf c.refout s ^^^ c.xorout

/-- The CRC-8 of a byte sequence (R86): from `INIT`, one `crcUpdate` a byte, then `crcDigest`. -/
def crc8 (c : CrcParams) (S : List Byte) : Byte :=
  crcDigest c (S.foldl (crcUpdate c) c.init)

/-- The 256-entry lookup table of a polynomial (R88), entry `i` at index `i`. -/
def crcTable (poly : Byte) : List Byte :=
  (List.range 256).map fun i => crcShift8 poly (BitVec.ofNat 8 i)

/-- UPDATE by one table lookup (R89). -/
def crcUpdateByTable (c : CrcParams) (s b : Byte) : Byte :=
  (crcTable c.poly).getD (s ^^^ reflectIf c.refin b).toNat 0

/-- One step of the right-shifting form (R91): the test is on bit 0, the constant is reflected. -/
def crcShiftRight (poly q : Byte) : Byte :=
  if q.getLsbD 0 then (q >>> 1) ^^^ reflect8 poly else q >>> 1

/-- UPDATE on the bit-reversed register of the right-shifting form, for `REFIN = 1` (R91). -/
def crcUpdateRight (poly q b : Byte) : Byte := (crcShiftRight poly)^[8] (q ^^^ b)

end Sys2Proof.Machine
end

