-- ==== Sys2Proof/Machine/Interface.lean ====
section
/-! DEFINITION. The three functions that the shared interface selects by the kind of the instance
(spec 10_state.md R19; 40_interface_ops.md R61, R62), and the checksum of a sequence (R68, R69). -/

namespace Sys2Proof.Machine

/-- `init_value` (R19): `INIT` as it stands for CRC8, 0x00 for SUM and XOR. -/
def initValue (P : Params) : Byte :=
  match P.alg with
  | .crc8 => P.init
  | .sum => 0x00
  | .xor => 0x00

/-- `upd` (R61). -/
def upd (P : Params) (s b : Byte) : Byte :=
  match P.alg with
  | .crc8 => crcUpdate P.toCrcParams s b
  | .sum => sumUpdate s b
  | .xor => xorUpdate s b

/-- `dig` (R62): the register itself for SUM and XOR. -/
def dig (P : Params) (s : Byte) : Byte :=
  match P.alg with
  | .crc8 => crcDigest P.toCrcParams s
  | .sum => s
  | .xor => s

/-- `fold_upd`: one update a byte, in order (R68). -/
def foldUpd (P : Params) : Byte → List Byte → Byte
  | s, [] => s
  | s, b :: rest => foldUpd P (upd P s b) rest

/-- The checksum of a byte sequence (R69). -/
def checksum (P : Params) (S : List Byte) : Byte := dig P (foldUpd P (initValue P) S)

end Sys2Proof.Machine
end

