-- ==== Sys2Proof/Machine/Ports.lean ====
section
/-! DEFINITION. The straps and the run-time ports (spec 30_encoding.md R41, R43) and the event that
the ports form in a step (R44). `clk` is left out: a step is one event (70_reset_and_hazards.md R171). -/

namespace Sys2Proof

/-- The strap inputs (R41); `alg` is the raw 2-bit code of R42, which may be the reserved one. -/
structure Straps extends CrcParams where
  alg : BitVec 2
deriving DecidableEq, Repr

/-- What the host presents on the input ports in one step (R43). -/
structure Pins where
  rst      : Bool
  cmdValid : Bool
  cmdOp    : OpCode
  cmdData  : Byte
deriving DecidableEq, Repr

/-- The event of a step (00_scope.md R4). -/
inductive Event where
  | hwReset
  | idle
  | cmd (op : OpCode) (data : Byte)
deriving DecidableEq, Repr

namespace Machine

/-- The event the ports form (R44): a hardware reset has priority over a command. -/
def eventOf (p : Pins) : Event :=
  if p.rst then .hwReset
  else if p.cmdValid then .cmd p.cmdOp p.cmdData
  else .idle

/-- The command word `op, data` (R40). -/
def cmdWord (op : OpCode) (data : Byte) : CmdWord := op ++ data

/-- Nothing is presented (R46); the command fields are ignored and driven to 0. -/
def idlePins : Pins := { rst := false, cmdValid := false, cmdOp := 0, cmdData := 0 }

/-- A hardware reset request (70_reset_and_hazards.md R160) with no command. -/
def resetPins : Pins := { rst := true, cmdValid := false, cmdOp := 0, cmdData := 0 }

/-- The command word `w` is presented (R43). -/
def commandPins (w : CmdWord) : Pins :=
  { rst := false, cmdValid := true, cmdOp := opField w, cmdData := dataField w }

/-- A port sample that forms the event `e`. -/
def pinsOf : Event → Pins
  | .hwReset => resetPins
  | .idle => idlePins
  | .cmd op data => { rst := false, cmdValid := true, cmdOp := op, cmdData := data }

/-- The strap code of a kind of unit (R42). -/
def algCode : Alg → BitVec 2
  | .crc8 => 0b00
  | .sum => 0b01
  | .xor => 0b10

/-- The kind a strap code selects (R42); `0b11` is reserved and selects none. -/
def algOfCode (c : BitVec 2) : Option Alg :=
  if c = 0b00 then some .crc8
  else if c = 0b01 then some .sum
  else if c = 0b10 then some .xor
  else none

/-- The parameter record a setting of the straps carries (R41), none for the reserved `alg`. -/
def paramsOfStraps (x : Straps) : Option Params :=
  (algOfCode x.alg).map fun a => { x.toCrcParams with alg := a }

/-- The straps that carry `P` (R41). -/
def strapsOf (P : Params) : Straps := { P.toCrcParams with alg := algCode P.alg }

end Machine

end Sys2Proof
end

