-- ==== Sys2Proof/Machine/State.lean ====
section
/-! DEFINITION. The state of one instance (spec 10_state.md), the reasons a step can stop, and the
state right after reset. -/

namespace Sys2Proof.Machine

/-- One instance with what stands at its ports. `STATE` is the only architectural state (R10); the
other three fields carry what the spec's step function takes and gives beside it: `P`, the response
`out`, and the host's events (00_scope.md R4). -/
structure State where
  /-- The register `STATE` (R10). -/
  STATE  : Byte
  /-- `P`: fixed for the life of the instance, written by nothing (R14; log 1). -/
  params : Params
  /-- The response of the step just made: `none` is `rsp_valid = 0`, `some d` is `rsp_valid = 1` and
  `rsp_data = d` (30_encoding.md R48; log 5). -/
  rsp    : Option Byte
  /-- What the host will present on the input ports, next step first (log 3). -/
  inputs : List Pins
deriving DecidableEq, Repr

/-- There is no fault: "The core has no failure modes" (60_exceptions.md R140). No constructor, so
that no claim needs to exclude one. Safe: the spec names none. -/
inductive Fault where
deriving DecidableEq, Repr

/-- Why nothing runs. No step raises any of these: the last two are raised when an instance is
made, before any step exists (60_exceptions.md R141). -/
inductive Refusal where
  /-- Raised by an arm of `exec` without a meaning; there is none. Safe. -/
  | notModelled (mnemonic : String)
  /-- Raised by `instantiate` for the reserved strap value `alg = 0b11` (30_encoding.md R42). Safe:
  the spec refuses the instance. -/
  | reservedAlg
  /-- Raised by `instantiateByName`: a lookup failure, reported with the name that failed
  (42_variant_table.md R108). Safe: the spec refuses the instance. -/
  | unknownVariant (name : String)
deriving DecidableEq, Repr

/-- A fresh instance: just after `HwReset`, with nothing presented yet (10_state.md R20;
70_reset_and_hazards.md R160). -/
def State.fresh (P : Params) : State :=
  { STATE := initValue P, params := P, rsp := none, inputs := [] }

/-- The machine right after reset: `STATE = init_value(P)`, `rsp_valid = 0` (R20), for the instance
`Config.resetParams` (log 2), the host presenting nothing yet (log 3). -/
def State.reset : State := State.fresh Config.resetParams

end Sys2Proof.Machine
end

