-- ==== Sys2Proof/Machine/Ops.lean ====
section
/-! DEFINITION. The operations that every command and event is made of: writing the register,
producing a response or none, and taking the next port sample. The block takes no exception and
returns from none (spec 60_exceptions.md R140, R144, R145), so there is no such operation. -/

namespace Sys2Proof.Machine

/-- `STATE <- v` (spec 00_scope.md section 7). -/
def writeSTATE (v : Byte) (s : State) : State := { s with STATE := v }

/-- `out <- v`: the step produces the response `v` (00_scope.md section 7; 30_encoding.md R48). -/
def respond (v : Byte) (s : State) : State := { s with rsp := some v }

/-- The step produces no response: `rsp_valid = 0` (30_encoding.md R48). -/
def noResponse (s : State) : State := { s with rsp := none }

/-- `STATE <- init_value(P)`, no response: what a hardware reset, INITIALIZE and RESET do
(70_reset_and_hazards.md R160, R161; 40_interface_ops.md R64, R67). -/
def loadInitial (s : State) : State := noResponse (writeSTATE (initValue s.params) s)

/-- The event `HwReset` (70_reset_and_hazards.md R160). -/
def hwReset (s : State) : State := loadInitial s

/-- The event `Idle` (30_encoding.md R46): `STATE` is held. -/
def idleStep (s : State) : State := noResponse s

/-- What stands on the input ports in the next step; nothing once the list is used up (log 4). -/
def presented (s : State) : Pins := s.inputs.headD idlePins

/-- The port sample is taken: the rest of the list stands for the later steps (log 3). -/
def consume (s : State) : State := { s with inputs := s.inputs.tail }

end Sys2Proof.Machine
end

