-- ==== Sys2Proof/Machine/Commands.lean ====
section
/-! DEFINITION. The meanings of the four commands (spec 40_interface_ops.md R64 to R67). None can
fail. -/

namespace Sys2Proof.Machine

/-- INITIALIZE (R64). -/
def execInitialize (s : State) : Host.Outcome State Fault Refusal :=
  .next (loadInitial s)

/-- UPDATE b (R65). -/
def execUpdate (b : Byte) (s : State) : Host.Outcome State Fault Refusal :=
  .next (noResponse (writeSTATE (upd s.params s.STATE b) s))

/-- DIGEST (R66): `STATE` is not written. -/
def execDigest (s : State) : Host.Outcome State Fault Refusal :=
  .next (respond (dig s.params s.STATE) s)

/-- RESET (R67): identical in every respect to INITIALIZE. -/
def execReset (s : State) : Host.Outcome State Fault Refusal :=
  .next (loadInitial s)

end Sys2Proof.Machine
end

