-- ==== Sys2Proof/Machine/Dispatch.lean ====
section
/-! DEFINITION. One arm per command (spec 40_interface_ops.md R60). -/

namespace Sys2Proof.Machine

def exec (i : Instr) (s : State) : Host.Outcome State Fault Refusal :=
  match i with
  | .init => Sys2Proof.Machine.execInitialize s
  | .update b => Sys2Proof.Machine.execUpdate b s
  | .digest => Sys2Proof.Machine.execDigest s
  | .reset => Sys2Proof.Machine.execReset s

end Sys2Proof.Machine
end

