-- ==== Sys2Proof/Machine/Events.lean ====
section
/-! DEFINITION. What an instance does on one event (spec 40_interface_ops.md R60): the step function
`step(P, s, e)`, with `P` and `s` read from the state. -/

namespace Sys2Proof.Machine

/-- One event (R60). A command is decoded from its word (30_encoding.md R40) and performed in this
step (R47). -/
def performEvent (e : Event) (s : State) : Host.Outcome State Fault Refusal :=
  match e with
  | .hwReset => .next (hwReset s)
  | .idle => .next (idleStep s)
  | .cmd op data => exec (decode (cmdWord op data)) s

end Sys2Proof.Machine
end

