-- ==== Sys2Proof/Machine/Step.lean ====
section
/-! DEFINITION. One step: take the next port sample, form its event (spec 30_encoding.md R44), perform
it (40_interface_ops.md R60). -/

namespace Sys2Proof.Machine

/-- One step of the instance (R44, R60; log 3, log 4). -/
def step (s : State) : Host.Outcome State Fault Refusal :=
  performEvent (eventOf (presented s)) (consume s)

/-- `s` with the command word of number `w` presented at the port in the very next step, before all
that was to be presented (log 3, log 14). A command is never stored in the block (10_state.md R12). -/
def State.withFetchWord (s : State) (_nbits w : Nat) : State :=
  { s with inputs := commandPins (BitVec.ofNat 10 w) :: s.inputs }

end Sys2Proof.Machine
end

