-- ==== Sys2Proof/Assembly.lean ====
section
/-! DEFINITION. The lines of a command sequence in the spec's textual form, read but not yet expanded
(spec 30_encoding.md R53, R54). They are host-side: nothing of them is stored in the block. -/

namespace Sys2Proof

/-- One line: a command, one of the two events without a word (R53), or a pseudo-operation (R54). -/
inductive AsmLine where
  /-- INITIALIZE -/
  | init
  /-- UPDATE n, the byte as it is written -/
  | update (n : Nat)
  /-- DIGEST -/
  | digest
  /-- RESET -/
  | reset
  /-- IDLE: a step with `cmd_valid = 0` -/
  | idle
  /-- HWRESET: a step with `rst = 1` -/
  | hwReset
  /-- UPDATEALL b0, b1, ..., bn-1 (n >= 0) -/
  | updateAll (ns : List Nat)
  /-- UPDATEALL of a quoted text -/
  | updateText (cs : List Char)
  /-- FINALIZE: another name of DIGEST -/
  | finalize
deriving DecidableEq, Repr

end Sys2Proof
end

