-- ==== Sys2Proof/WellFormed.lean ====
section
/-! DEFINITION. What the spec asks of a term before it means anything: the strap code (30_encoding.md
R42) and the written bytes and characters of a line of text (R53, R54). -/

namespace Sys2Proof

/-- Every instruction is well formed: all 256 data bytes are legal under every operation code (R50),
and a wider operand cannot be written in `Instr`. -/
def Instr.wf : Instr → Bool
  | .init => true
  | .update _ => true
  | .digest => true
  | .reset => true

/-- The straps name a legal instance: `alg = 0b11` is reserved (R42). -/
def Straps.wf (x : Straps) : Bool := x.alg != 0b11

/-- A written byte is 0 to 255 (R53), a character of a text has an ASCII code (R54; log 13). -/
def AsmLine.wf : AsmLine → Bool
  | .init => true
  | .update n => n < 256
  | .digest => true
  | .reset => true
  | .idle => true
  | .hwReset => true
  | .updateAll ns => ns.all (· < 256)
  | .updateText cs => cs.all (·.toNat < 128)
  | .finalize => true

end Sys2Proof
end

