-- ==== Sys2Proof/Machine/Assembler.lean ====
section
/-! DEFINITION. The host's assembler (spec 30_encoding.md R53, R54): from text to lines, from lines to
the port samples of the steps. What R53 leaves open of the text (blanks, letters of hexadecimal
digits, quotes) is log 13. -/

namespace Sys2Proof.Machine

/-- The port sample of one command. -/
def commandOf (i : Instr) : Pins := commandPins (encode i)

/-- UPDATEALL: one UPDATE a byte, in order, nothing for none (R54). -/
def updateAllPins (S : List Byte) : List Pins := S.map fun b => commandOf (.update b)

/-- The steps a well-formed line stands for (R53, R54). -/
def stepsOfLine : AsmLine → List Pins
  | .init => [commandOf .init]
  | .update n => [commandOf (.update (BitVec.ofNat 8 n))]
  | .digest => [commandOf .digest]
  | .reset => [commandOf .reset]
  | .idle => [idlePins]
  | .hwReset => [resetPins]
  | .updateAll ns => updateAllPins (ns.map (BitVec.ofNat 8))
  | .updateText cs => updateAllPins (cs.map fun c => BitVec.ofNat 8 c.toNat)
  | .finalize => [commandOf .digest]

/-- The steps a line stands for; none for an ill-formed line (R53: a byte is 0 to 255). -/
def expandLine (l : AsmLine) : Option (List Pins) :=
  if l.wf then some (stepsOfLine l) else none

/-- The steps of a sequence of lines, in order; none if a line is ill formed. -/
def expandLines : List AsmLine → Option (List Pins)
  | [] => some []
  | l :: ls =>
    match expandLine l, expandLines ls with
    | some ps, some qs => some (ps ++ qs)
    | _, _ => none

/-- A blank between the words of a line (log 13). -/
def isBlank (c : Char) : Bool := c == ' ' || c == '\t' || c == '\r'

/-- The characters without the blanks around them. -/
def trim (cs : List Char) : List Char :=
  ((cs.dropWhile isBlank).reverse.dropWhile isBlank).reverse

/-- The characters before a comment, `;` outside quotes (R53; log 13). -/
def beforeComment : Bool → List Char → List Char
  | _, [] => []
  | inQuotes, c :: cs =>
    if c == ';' && !inQuotes then []
    else c :: beforeComment (if c == '"' then !inQuotes else inQuotes) cs

/-- The pieces between the separators: always at least one. -/
def splitAt (sep : Char) : List Char → List (List Char)
  | [] => [[]]
  | c :: cs =>
    if c == sep then [] :: splitAt sep cs
    else match splitAt sep cs with
      | [] => [[c]]
      | p :: ps => (c :: p) :: ps

/-- The value of a decimal digit. -/
def decDigit (c : Char) : Option Nat :=
  if '0' ≤ c ∧ c ≤ '9' then some (c.toNat - 48) else none

/-- The value of a hexadecimal digit, capital or small letter (log 13). -/
def hexDigit (c : Char) : Option Nat :=
  if 'A' ≤ c ∧ c ≤ 'F' then some (c.toNat - 55)
  else if 'a' ≤ c ∧ c ≤ 'f' then some (c.toNat - 87)
  else decDigit c

/-- The number that digits write in a base, most significant first; none if one is no digit. -/
def digitsValue (base : Nat) (digit : Char → Option Nat) : Nat → List Char → Option Nat
  | acc, [] => some acc
  | acc, c :: cs =>
    match digit c with
    | some d => digitsValue base digit (base * acc + d) cs
    | none => none

/-- A byte as R53 writes it: `0x` and two hexadecimal digits, or decimal. The range of a decimal
number is `AsmLine.wf`'s to check. -/
def parseByte (cs : List Char) : Option Nat :=
  match cs with
  | ['0', 'x', h, l] => digitsValue 16 hexDigit 0 [h, l]
  | [] => none
  | ds => digitsValue 10 decDigit 0 ds

/-- All of the bytes, or none if one is not a byte. -/
def parseBytes : List (List Char) → Option (List Nat)
  | [] => some []
  | p :: ps =>
    match parseByte (trim p), parseBytes ps with
    | some n, some ns => some (n :: ns)
    | _, _ => none

/-- The operand of UPDATEALL (R54): nothing, a text in quotes, or bytes with commas between. -/
def parseUpdateAll (arg : List Char) : Option AsmLine :=
  match arg with
  | [] => some (.updateAll [])
  | '"' :: cs =>
    match cs.reverse with
    | '"' :: body => if body.contains '"' then none else some (.updateText body.reverse)
    | _ => none
  | _ => (parseBytes (splitAt ',' arg)).map .updateAll

/-- A line of text (R53): no line of code for a blank or a comment, none for what is no line. -/
def parseLine (text : List Char) : Option (List AsmLine) :=
  let cs := trim (beforeComment false text)
  let word := cs.takeWhile (!isBlank ·)
  let arg := trim (cs.dropWhile (!isBlank ·))
  if cs = [] then some []
  else if word = "UPDATE".toList then (parseByte arg).map fun n => [.update n]
  else if word = "UPDATEALL".toList then (parseUpdateAll arg).map fun l => [l]
  else if arg ≠ [] then none
  else if word = "INITIALIZE".toList then some [.init]
  else if word = "DIGEST".toList then some [.digest]
  else if word = "FINALIZE".toList then some [.finalize]
  else if word = "RESET".toList then some [.reset]
  else if word = "IDLE".toList then some [.idle]
  else if word = "HWRESET".toList then some [.hwReset]
  else none

/-- All lines of a text, one command per line (R53). -/
def parseLines : List (List Char) → Option (List AsmLine)
  | [] => some []
  | t :: ts =>
    match parseLine t, parseLines ts with
    | some l, some ls => some (l ++ ls)
    | _, _ => none

/-- Text to port samples (R53, R54): none if some line is not in the textual form. -/
def assemble (text : List Char) : Option (List Pins) :=
  (parseLines (splitAt '\n' text)).bind expandLines

end Sys2Proof.Machine
end

