-- ==== Sys2Proof/Machine/Variants.lean ====
section
/-! DEFINITION. The variant configuration table (spec 42_variant_table.md) and selection of a row by
name. No operation of the block reads it. -/

namespace Sys2Proof.Machine

/-- The nine bytes of the ASCII string "123456789" (R107). -/
def msg9 : List Byte := [0x31, 0x32, 0x33, 0x34, 0x35, 0x36, 0x37, 0x38, 0x39]

/-- Row `CRC-8` (R101). -/
def rowCrc8 : Cfg :=
  { name := "CRC-8", poly := 0x07, init := 0x00, refin := false, refout := false,
    xorout := 0x00, check := 0xF4 }

/-- Row `CRC-8/CDMA2000` (R102). -/
def rowCdma2000 : Cfg :=
  { name := "CRC-8/CDMA2000", poly := 0x9B, init := 0xFF, refin := false, refout := false,
    xorout := 0x00, check := 0xDA }

/-- Row `CRC-8/DARC` (R103). -/
def rowDarc : Cfg :=
  { name := "CRC-8/DARC", poly := 0x39, init := 0x00, refin := true, refout := true,
    xorout := 0x00, check := 0x15 }

/-- Row `CRC-8/ROHC` (R104). -/
def rowRohc : Cfg :=
  { name := "CRC-8/ROHC", poly := 0x07, init := 0xFF, refin := true, refout := true,
    xorout := 0x00, check := 0xD0 }

/-- Row `CRC-8/WCDMA` (R105). -/
def rowWcdma : Cfg :=
  { name := "CRC-8/WCDMA", poly := 0x9B, init := 0x00, refin := true, refout := true,
    xorout := 0x00, check := 0x25 }

/-- A row the source names without numbers (R106): the numbers are free, and `CHECK` is the one value
that R107 allows them (log 6). -/
def openRow (name : String) (c : CrcParams) : Cfg :=
  { c with name := name, check := crc8 c msg9 }

/-- The table: eight rows in the source's order, numbered 0 to 7 (R100, R110), for the open numbers
`o` (R106). -/
def variantTable (o : OpenRows) : List Cfg :=
  [rowCrc8, openRow "CRC-8/ATM" o.atm, rowCdma2000, rowDarc, openRow "CRC-8/ETSI" o.etsi, rowRohc,
   openRow "CRC-8/SMBUS" o.smbus, rowWcdma]

/-- Selection by name (R108): the row whose `NAME` equals the argument exactly, none for any other
string. -/
def lookupIn (o : OpenRows) (name : String) : Option Cfg :=
  (variantTable o).find? fun r => r.name == name

/-- Selection by name in this implementation's table. -/
def lookup (name : String) : Option Cfg := lookupIn Config.openRows name

end Sys2Proof.Machine
end

