-- ==== Sys2Proof/Machine/Instantiate.lean ====
section
/-! DEFINITION. How an instance comes to be: from its straps (spec 30_encoding.md R41, R42) or by
selection (42_variant_table.md R108, R109). These are the only refusals of the whole block, and they
are made before any step exists (60_exceptions.md R141). -/

namespace Sys2Proof.Machine

/-- What the selection surface takes (R109): the name of a row, or a plain accumulator directly. -/
inductive Selection where
  | variant (name : String)
  | sum
  | xor
deriving DecidableEq, Repr

/-- A CRC8 instance bound to a configuration (R110: to any configuration, of the table or not). -/
def paramsOfCrc (c : CrcParams) : Params := { c with alg := .crc8 }

/-- The instance that straps describe, just after its first hardware reset; no machine for the
reserved `alg` (R42; 70_reset_and_hazards.md R165). -/
def instantiate (x : Straps) : Host.Outcome State Fault Refusal :=
  match paramsOfStraps x with
  | some P => .next (State.fresh P)
  | none => .refused .reservedAlg

/-- The instance bound to the row of that name; a lookup failure for an unknown name, never a machine
with default parameters (R108). -/
def instantiateByName (o : OpenRows) (name : String) : Host.Outcome State Fault Refusal :=
  match lookupIn o name with
  | some r => .next (State.fresh (paramsOfCrc r.toCrcParams))
  | none => .refused (.unknownVariant name)

/-- Selection (R109). The configuration straps `c` of a SUM or XOR instance may hold any numbers:
they are ignored. -/
def instantiateSelection (o : OpenRows) (c : CrcParams) :
    Selection → Host.Outcome State Fault Refusal
  | .variant name => instantiateByName o name
  | .sum => .next (State.fresh { c with alg := .sum })
  | .xor => .next (State.fresh { c with alg := .xor })

end Sys2Proof.Machine
end

