-- ==== Sys2Proof/Machine/System.lean ====
section
/-! DEFINITION. Several instances side by side (spec 60_exceptions.md R152): the product of independent
machines, each with its own events. The position in the vector is the model's name for an instance;
the spec gives instances no identifiers (log 15). -/

namespace Sys2Proof.Machine

/-- `n` instances, of the same or different kinds. -/
abbrev System (n : Nat) := Vector State n

/-- Instance `k` makes one step; all others stand. -/
def stepAt {n : Nat} (k : Fin n) (e : Event) (sys : System n) :
    Host.Outcome (System n) Fault Refusal :=
  match performEvent e sys[k] with
  | .next t => .next (sys.set k t)
  | .fault r => .fault r
  | .refused r => .refused r

/-- An interleaving of the instances' steps, with the responses in order, each with its instance. -/
def runSystem {n : Nat} : List (Fin n × Event) → System n →
    Host.Outcome (System n × List (Fin n × Byte)) Fault Refusal
  | [], sys => .next (sys, [])
  | (k, e) :: rest, sys =>
    match stepAt k e sys with
    | .next sys' =>
      match runSystem rest sys' with
      | .next (last, rs) => .next (last, (sys'[k].rsp.toList.map fun d => (k, d)) ++ rs)
      | .fault r => .fault r
      | .refused r => .refused r
    | .fault r => .fault r
    | .refused r => .refused r

end Sys2Proof.Machine
end

