-- ==== Sys2Proof/Machine/Flags.lean ====
section
/-! DEFINITION. The block has no flags, condition codes or status bits (spec 10_state.md R13), so no
command computes one. The one single-bit output is `rsp_valid` (30_encoding.md R43, R48). -/

namespace Sys2Proof.Machine

/-- The output port `rsp_valid`: the step just made produced a response (R48). -/
def rspValid (s : State) : Bool := s.rsp.isSome

end Sys2Proof.Machine
end

