-- ==== Sys2Proof/Safety.lean ====
section
/-! DEFINITION. The terms claims use: runs and their results (spec 00_scope.md R9), what
a run has consumed and answered (20_memory.md R35), and what a safe run is. -/

namespace Sys2Proof.Machine

/-- A run of the host's events (R9): the final state and the responses, in order. -/
def runEvents : List Event → State → Host.Outcome (State × List Byte) Fault Refusal
  | [], s => .next (s, [])
  | e :: es, s =>
    match performEvent e s with
    | .next t =>
      match runEvents es t with
      | .next (u, rs) => .next (u, t.rsp.toList ++ rs)
      | .fault r => .fault r
      | .refused r => .refused r
    | .fault r => .fault r
    | .refused r => .refused r

/-- `k` steps with the responses they give, in order. -/
def runSteps : Nat → State → Host.Outcome (State × List Byte) Fault Refusal
  | 0, s => .next (s, [])
  | k + 1, s =>
    match step s with
    | .next t =>
      match runSteps k t with
      | .next (u, rs) => .next (u, t.rsp.toList ++ rs)
      | .fault r => .fault r
      | .refused r => .refused r
    | .fault r => .fault r
    | .refused r => .refused r

/-- `k` steps all complete: no fault and no refusal. -/
def SafeRun (k : Nat) (s : State) : Prop := ∃ t rs, runSteps k s = .next (t, rs)

/-- `s` with these port samples to be presented and no others. -/
def present (ps : List Pins) (s : State) : State := { s with inputs := ps }

/-- The UPDATE commands of a byte sequence (R68). -/
def updates (S : List Byte) : List Event := S.map fun b => .cmd 0b01 b

/-- The DIGEST command, its data field 0 (R53). -/
def digestCmd : Event := .cmd 0b10 0

/-- The event leaves `STATE` alone: an idle step or a DIGEST, whatever its data field (10_state.md
R11). -/
def Event.isPassive : Event → Bool
  | .hwReset => false
  | .idle => true
  | .cmd op _ => op == 0b10

/-- The bytes accepted since the last hardware reset, INITIALIZE or RESET (20_memory.md R35 (b)),
`acc` being those before the run. -/
def consumedBy : List Byte → List Event → List Byte
  | acc, [] => acc
  | _, .hwReset :: es => consumedBy [] es
  | acc, .idle :: es => consumedBy acc es
  | acc, .cmd op b :: es =>
    consumedBy (if op = 0b01 then acc ++ [b] else if op = 0b10 then acc else []) es

/-- What the DIGEST commands of a run answer: each the checksum of the bytes accepted before it
(20_memory.md R35 (b)), `acc` being those before the run. -/
def answersOf (P : Params) : List Byte → List Event → List Byte
  | _, [] => []
  | _, .hwReset :: es => answersOf P [] es
  | acc, .idle :: es => answersOf P acc es
  | acc, .cmd op b :: es =>
    if op = 0b10 then checksum P acc :: answersOf P acc es
    else answersOf P (if op = 0b01 then acc ++ [b] else []) es

/-- The response port, when it is valid, shows the digest of the register. -/
def RspIsDigest (s : State) : Prop := ∀ d, s.rsp = some d → d = dig s.params s.STATE

end Sys2Proof.Machine
end

