-- ==== Sys2Proof/Certificates/Slice0/Obligations.lean ====
section
/-! DEFINITION. The statements about the model, in the order of OBLIGATIONS.json. Where one rests on a
choice of the model's or on a sentence the spec itself marks as derived, its docstring says so. -/

open Sys2Proof Sys2Proof.Machine

/-! ### The step function -/

/-- 00_scope.md R5: every event completes from every state, and what it does to the register and the
response depends on `P`, `STATE` and the event alone. -/
def Obligations.EveryEventCompletesDeterministically : Prop :=
  ∀ (e : Event) (s : State), ∃ t, performEvent e s = .next t ∧
    ∀ s' : State, s'.params = s.params → s'.STATE = s.STATE →
      ∃ t', performEvent e s' = .next t' ∧ t'.STATE = t.STATE ∧ t'.rsp = t.rsp

/-- 60_exceptions.md R140: no command raises anything. There is no fault to raise, and each of the four
commands answers a next state in every state. Frame of all four: the parameters and the samples still to
be presented stand. -/
def Obligations.EveryCommandCompletes : Prop :=
  (Fault → False) ∧
  ∀ (i : Instr) (s : State), ∃ t, exec i s = .next t ∧
    t.params = s.params ∧ t.inputs = s.inputs

/-- 40_interface_ops.md R60, line for line: the next `STATE` and the response of each event; everything
else in the state stands. -/
def Obligations.StepFunctionOfTheInterface : Prop :=
  ∀ (s : State) (b : Byte),
    performEvent .hwReset s = .next { s with STATE := initValue s.params, rsp := none } ∧
    performEvent .idle s = .next { s with rsp := none } ∧
    performEvent (.cmd 0b00 b) s = .next { s with STATE := initValue s.params, rsp := none } ∧
    performEvent (.cmd 0b01 b) s = .next { s with STATE := upd s.params s.STATE b, rsp := none } ∧
    performEvent (.cmd 0b10 b) s = .next { s with rsp := some (dig s.params s.STATE) } ∧
    performEvent (.cmd 0b11 b) s = .next { s with STATE := initValue s.params, rsp := none }

/-- 30_encoding.md R44: how the ports form the event; `rst` has priority, and the command presented with
it is discarded. -/
def Obligations.PortsFormTheEvent : Prop :=
  ∀ (valid : Bool) (op : OpCode) (data : Byte),
    eventOf { rst := true, cmdValid := valid, cmdOp := op, cmdData := data } = .hwReset ∧
    eventOf { rst := false, cmdValid := false, cmdOp := op, cmdData := data } = .idle ∧
    eventOf { rst := false, cmdValid := true, cmdOp := op, cmdData := data } = .cmd op data

/-- 70_reset_and_hazards.md R160: a step with `rst = 1`, whatever command stands beside it, loads the
initial value, gives no response and touches nothing else; the instance is then a fresh one. -/
def Obligations.HardwareResetLoadsInitialValue : Prop :=
  ∀ (valid : Bool) (op : OpCode) (data : Byte) (s : State),
    performEvent (eventOf { rst := true, cmdValid := valid, cmdOp := op, cmdData := data }) s =
      .next { s with
        STATE := (if s.params.alg = .crc8 then s.params.init else 0x00), rsp := none } ∧
    performEvent .hwReset (present [] s) = .next (State.fresh s.params)

/-- 30_encoding.md R46: an idle step holds `STATE` and gives no response, whatever stands on the
command ports. -/
def Obligations.IdleStepHoldsTheRegister : Prop :=
  ∀ (op : OpCode) (data : Byte) (s : State),
    performEvent (eventOf { rst := false, cmdValid := false, cmdOp := op, cmdData := data }) s =
      .next { s with rsp := none }

/-- 30_encoding.md R47: every command presented without reset is performed in that very step, in every
state, so also in the step right after another. -/
def Obligations.EveryPresentedCommandIsPerformed : Prop :=
  ∀ (op : OpCode) (data : Byte) (s : State), ∃ t,
    exec (decode (cmdWord op data)) s = .next t ∧
    performEvent (eventOf { rst := false, cmdValid := true, cmdOp := op, cmdData := data }) s = .next t

/-- 30_encoding.md R48: a response exactly in a step that performs DIGEST, from the `STATE` the step
began with; in every other step `rsp_valid = 0`. -/
def Obligations.OnlyDigestResponds : Prop :=
  ∀ (e : Event) (s : State), ∃ t, performEvent e s = .next t ∧
    match e with
    | .hwReset => rspValid t = false
    | .idle => rspValid t = false
    | .cmd op _ =>
      if op = 0b10 then rspValid t = true ∧ t.rsp = some (dig s.params s.STATE)
      else rspValid t = false

/-- One step of the machine, in the model's form of the host's inputs (log 3: one port sample a step,
log 4: idle when there is none left, log 14: `withFetchWord`): it performs the event of the sample at the
head on the rest, and a step on a decoded instruction is `exec` of it. -/
def Obligations.StepRunsThePresentedCommand : Prop :=
  (∀ (p : Pins) (ps : List Pins) (s : State),
    step (present (p :: ps) s) = performEvent (eventOf p) (present ps s)) ∧
  (∀ (op : OpCode) (data : Byte) (ps : List Pins) (s : State),
    step (present ({ rst := false, cmdValid := true, cmdOp := op, cmdData := data } :: ps) s) =
      exec (decode (cmdWord op data)) (present ps s)) ∧
  (∀ s : State, step (present [] s) = .next { present [] s with rsp := none }) ∧
  (∀ (n w : Nat) (i : Instr) (s : State), decodeTableWord n w = some i →
    step (s.withFetchWord n w) = exec i s)

/-- The run of the machine over a list of port samples is the run of their events, and it idles after
them (the model's form of the host's inputs, log 3 and log 4). -/
def Obligations.StepsFollowThePresentedEvents : Prop :=
  ∀ (ps : List Pins) (s : State), ∃ t rs,
    runEvents (ps.map eventOf) s = .next (t, rs) ∧
    runSteps ps.length (present ps s) = .next (present [] t, rs) ∧
    ∀ k : Nat, runSteps (ps.length + (k + 1)) (present ps s) =
      .next ({ present [] t with rsp := none }, rs)

/-- No run of the machine ever stops, from any state (00_scope.md section 9 in the model's form of the
host's inputs, log 3). -/
def Obligations.NoRunEverStops : Prop :=
  ∀ (k : Nat) (s : State), (∃ t, Sys2Proof.core.run k s = .next t) ∧ SafeRun k s

/-! ### Reset values and the parameters -/

/-- 10_state.md R19 and R20: the initial value by the kind of the instance, and the instance after a
hardware reset: `STATE` at that value, `rsp_valid = 0`. -/
def Obligations.ResetValueByKind : Prop :=
  ∀ (c : CrcParams) (s : State),
    initValue { c with alg := .crc8 } = c.init ∧
    initValue { c with alg := .sum } = 0x00 ∧
    initValue { c with alg := .xor } = 0x00 ∧
    (∀ P : Params, (State.fresh P).STATE = initValue P ∧ (State.fresh P).params = P ∧
      rspValid (State.fresh P) = false) ∧
    ∃ t, performEvent .hwReset s = .next t ∧ t.STATE = initValue s.params ∧ rspValid t = false

/-- What `State.reset` is. The instance is the model's choice (log 2: the spec gives `P` no value), and so
is the empty list of samples (log 3). -/
def Obligations.ResetStateOfTheModel : Prop :=
  State.reset =
    { STATE := 0x00,
      params := { alg := .crc8, poly := 0x07, init := 0x00, refin := false, refout := false,
                  xorout := 0x00 },
      rsp := none, inputs := [] } ∧
  State.reset.params = paramsOfCrc rowCrc8.toCrcParams

/-- 10_state.md R14: no operation and no event changes the configuration, at any step of a run. -/
def Obligations.NothingChangesTheParameters : Prop :=
  ∀ (es : List Event) (s : State), ∃ t rs, runEvents es s = .next (t, rs) ∧ t.params = s.params

/-! ### The four commands -/

/-- 40_interface_ops.md R64. The whole next state is given: nothing else changes. -/
def Obligations.InitializeLoadsInitialValue : Prop :=
  (∀ data : Byte, decode (cmdWord 0b00 data) = .init) ∧
  (∀ s : State, exec .init s = .next { s with STATE := initValue s.params, rsp := none }) ∧
  (∀ P : Params, exec .init (State.fresh P) = .next (State.fresh P)) ∧
  (∀ s t u : State, exec .init s = .next t → exec .init t = .next u → u = t) ∧
  (∀ (c : CrcParams) (s : State), ∃ t,
    exec .init { s with STATE := 0x5E, params := { c with alg := .crc8, init := 0xFF } } = .next t ∧
    t.STATE = 0xFF)

/-- 40_interface_ops.md R65. The whole next state is given: nothing else changes. -/
def Obligations.UpdateConsumesOneByte : Prop :=
  (∀ b : Byte, decode (cmdWord 0b01 b) = .update b) ∧
  (∀ (b : Byte) (s : State),
    exec (.update b) s = .next { s with STATE := upd s.params s.STATE b, rsp := none }) ∧
  (∀ (c : CrcParams) (s : State), ∃ t,
    exec (.update 0x31)
      { s with STATE := 0x00, params := { c with alg := .crc8, poly := 0x07, refin := false } } =
      .next t ∧ t.STATE = 0x97)

/-- 40_interface_ops.md R66. The whole next state is given: the register and all else stand, and only the
response is produced. -/
def Obligations.DigestAnswersAndWritesNothing : Prop :=
  (∀ data : Byte, decode (cmdWord 0b10 data) = .digest) ∧
  (∀ s : State, exec .digest s = .next { s with rsp := some (dig s.params s.STATE) }) ∧
  (∀ P : Params, ∃ t, exec .digest (State.fresh P) = .next t ∧
    t.rsp = some (dig P (initValue P))) ∧
  (∀ (c : CrcParams) (s : State), ∃ t,
    exec .digest
      { s with STATE := 0x0B, params := { c with alg := .crc8, refout := true, xorout := 0x00 } } =
      .next t ∧ t.rsp = some 0xD0 ∧ t.STATE = 0x0B)

/-- 40_interface_ops.md R67. The whole next state is given: nothing else changes. -/
def Obligations.ResetCommandEqualsInitialize : Prop :=
  (∀ data : Byte, decode (cmdWord 0b11 data) = .reset) ∧
  (∀ s : State, exec .reset s = .next { s with STATE := initValue s.params, rsp := none }) ∧
  (∀ s : State, exec .reset s = exec .init s) ∧
  (∀ (c : CrcParams) (s : State), ∃ t,
    exec .reset { s with STATE := 0x06, params := { c with alg := .sum } } = .next t ∧
    t.STATE = 0x00)

/-- 40_interface_ops.md R61 and R62: which rule UPDATE and DIGEST follow, by the kind of the instance. -/
def Obligations.RulesAreSelectedByKind : Prop :=
  ∀ (c : CrcParams) (s b : Byte),
    upd { c with alg := .crc8 } s b = crcUpdate c s b ∧
    upd { c with alg := .sum } s b = sumUpdate s b ∧
    upd { c with alg := .xor } s b = xorUpdate s b ∧
    dig { c with alg := .crc8 } s = crcDigest c s ∧
    dig { c with alg := .sum } s = s ∧
    dig { c with alg := .xor } s = s

/-! ### The CRC-8 engine -/

/-- 41_crc8_engine.md R80: every bit of the reversal, and the rule's four examples. -/
def Obligations.ReflectReversesEveryBit : Prop :=
  (∀ (v : Byte) (i : Fin 8), (reflect8 v).getLsbD i = v.getLsbD (7 - i)) ∧
  reflect8 0x01 = 0x80 ∧ reflect8 0x31 = 0x8C ∧ reflect8 0x0F = 0xF0 ∧ reflect8 0xA5 = 0xA5

/-- The properties of the reversal, which the spec marks as derived (41_crc8_engine.md section 1): its own
inverse, a bijection, additive, and exactly sixteen bytes are fixed. -/
def Obligations.ReflectIsAnInvolution : Prop :=
  (∀ v : Byte, reflect8 (reflect8 v) = v) ∧
  Function.Bijective reflect8 ∧
  (∀ a b : Byte, reflect8 (a ^^^ b) = reflect8 a ^^^ reflect8 b) ∧
  ((List.range 256).filter fun n => reflect8 (BitVec.ofNat 8 n) == BitVec.ofNat 8 n).length = 16 ∧
  reflect8 0x00 = 0x00 ∧ reflect8 0xFF = 0xFF ∧ reflect8 0x81 = 0x81 ∧ reflect8 0xA5 = 0xA5

/-- 41_crc8_engine.md R82: one shift step in terms of numbers, the test on bit 7 before the shift, and
eight of them in a row, with the rule's examples. -/
def Obligations.ShiftStepTestsBitSevenFirst : Prop :=
  (∀ poly r : Byte,
    shl1 r = BitVec.ofNat 8 (2 * r.toNat % 256) ∧
    crcShift poly r =
      (if r.getLsbD 7 = true then BitVec.ofNat 8 (2 * r.toNat % 256) ^^^ poly
       else BitVec.ofNat 8 (2 * r.toNat % 256)) ∧
    crcShift8 poly r =
      crcShift poly (crcShift poly (crcShift poly (crcShift poly
        (crcShift poly (crcShift poly (crcShift poly (crcShift poly r)))))))) ∧
  crcShift 0x07 0x31 = 0x62 ∧ crcShift 0x07 0xC4 = 0x8F ∧ crcShift8 0x07 0x31 = 0x97

/-- 41_crc8_engine.md R83: UPDATE on a CRC8 instance. The whole byte is XORed in at once, reversed first
if REFIN, then exactly eight shift steps; nothing else in the state changes. -/
def Obligations.UpdateOfACrcInstance : Prop :=
  ∀ (c : CrcParams) (s : State) (b : Byte),
    exec (.update b) { s with params := { c with alg := .crc8 } } =
      .next { s with
        params := { c with alg := .crc8 },
        STATE := crcShift8 c.poly (s.STATE ^^^ (if c.refin = true then reflect8 b else b)),
        rsp := none }

/-- Corner cases (a) to (e) of UPDATE on a CRC8 instance, which the spec marks as derived
(41_crc8_engine.md section 2). -/
def Obligations.CrcUpdateCornerCases : Prop :=
  ∀ (c : CrcParams) (s b : Byte),
    crcUpdate c s 0x00 = crcShift8 c.poly s ∧
    crcUpdate c 0x00 0x00 = 0x00 ∧
    (s ^^^ reflectIf c.refin b = 0x00 → crcUpdate c s b = 0x00) ∧
    crcUpdate c 0xFF 0xFF = 0x00 ∧
    crcUpdate { c with poly := 0x00 } s b = 0x00 ∧
    crcUpdate { c with refin := true } s b = crcUpdate { c with refin := false } s (reflect8 b) ∧
    (∀ (i x : Byte) (o : Bool),
      crcUpdate { c with init := i, refout := o, xorout := x } s b = crcUpdate c s b)

/-- 41_crc8_engine.md R85, its formula: DIGEST on a CRC8 instance reflects first if REFOUT, then XORs
XOROUT as it stands, and writes nothing but the response; the rule's example. (The rule's bracketed
derived sentence is CrcDigestIsInvertible.) -/
def Obligations.DigestReflectsThenXors : Prop :=
  (∀ (c : CrcParams) (s : State),
    exec .digest { s with params := { c with alg := .crc8 } } =
      .next { s with
        params := { c with alg := .crc8 },
        rsp := some ((if c.refout = true then reflect8 s.STATE else s.STATE) ^^^ c.xorout) }) ∧
  (∀ c : CrcParams, crcDigest { c with refout := true, xorout := 0x55 } 0x01 = 0xD5)

/-- The digest is a bijection, and the register is recovered from it: a sentence the spec marks as
derived (41_crc8_engine.md section 3). -/
def Obligations.CrcDigestIsInvertible : Prop :=
  ∀ c : CrcParams, Function.Bijective (crcDigest c) ∧
    ∀ s d : Byte, crcDigest c s = d →
      s = (if c.refout = true then reflect8 (d ^^^ c.xorout) else d ^^^ c.xorout)

/-- 41_crc8_engine.md R86: the response of DIGEST after a byte sequence on a fresh CRC8 instance is the
CRC-8 of the sequence, from INIT as it stands; for no bytes the digest of INIT. -/
def Obligations.RunAnswersTheCrcOfTheSequence : Prop :=
  ∀ (c : CrcParams) (S : List Byte),
    (∃ t, runEvents (updates S ++ [digestCmd]) (State.fresh (paramsOfCrc c)) =
      .next (t, [crcDigest c (S.foldl (crcUpdate c) c.init)]) ∧
      t.STATE = S.foldl (crcUpdate c) c.init) ∧
    crc8 c S = crcDigest c (S.foldl (crcUpdate c) c.init) ∧
    crc8 c [] = crcDigest c c.init ∧
    checksum (paramsOfCrc c) S = crc8 c S

/-- 41_crc8_engine.md R87: reflection is applied to each input byte and to the output, never to the
register. Over any run of a CRC8 instance `STATE` is the register of the left-shifting algorithm: the
fold of whole-byte XOR and eight left shifts over the bytes accepted since the last re-initialisation,
from INIT as it stands (`acc` are the bytes accepted before the run; none for a fresh instance). REFOUT
and XOROUT do not reach it, and REFIN acts as the reversal of each byte before it is used. -/
def Obligations.ReflectionNeverReachesTheRegister : Prop :=
  (∀ (c : CrcParams) (es : List Event) (acc : List Byte) (s : State), ∃ t rs,
    runEvents es { s with
        params := paramsOfCrc c,
        STATE := acc.foldl
          (fun r b => crcShift8 c.poly (r ^^^ (if c.refin = true then reflect8 b else b))) c.init } =
      .next (t, rs) ∧
    t.STATE = (consumedBy acc es).foldl
      (fun r b => crcShift8 c.poly (r ^^^ (if c.refin = true then reflect8 b else b))) c.init) ∧
  (∀ (c : CrcParams) (es : List Event), ∃ t rs,
    runEvents es (State.fresh (paramsOfCrc c)) = .next (t, rs) ∧
    t.STATE = (consumedBy [] es).foldl
      (fun r b => crcShift8 c.poly (r ^^^ (if c.refin = true then reflect8 b else b))) c.init) ∧
  (∀ (c : CrcParams) (es : List Event) (s : State) (o : Bool) (x : Byte), ∃ t t' u u' rs rs' qs qs',
    runEvents es { s with params := paramsOfCrc c } = .next (t, rs) ∧
    runEvents es { s with params := paramsOfCrc { c with refout := o, xorout := x } } =
      .next (t', rs') ∧
    t'.STATE = t.STATE ∧
    runEvents es { s with params := paramsOfCrc { c with refin := true } } = .next (u, qs) ∧
    runEvents (es.map fun e => match e with
        | .hwReset => .hwReset
        | .idle => .idle
        | .cmd op b => .cmd op (reflect8 b))
      { s with params := paramsOfCrc { c with refin := false } } = .next (u', qs') ∧
    u'.STATE = u.STATE ∧ qs' = qs)

/-- The lookup table (rules the spec marks as derived, 41_crc8_engine.md section 4): 256 entries, each the
eight shift steps of its index, the entries the spec prints, and UPDATE by one lookup equals the
bit-level UPDATE. -/
def Obligations.TableLookupEqualsBitLevelUpdate : Prop :=
  (∀ poly : Byte, (crcTable poly).length = 256 ∧
    (∀ i : Fin 256, (crcTable poly)[i.val]? = some (crcShift8 poly (BitVec.ofNat 8 i))) ∧
    (crcTable poly)[0]? = some 0x00 ∧ (crcTable poly)[1]? = some poly) ∧
  (crcTable 0x07).take 16 = [0x00, 0x07, 0x0E, 0x09, 0x1C, 0x1B, 0x12, 0x15,
                             0x38, 0x3F, 0x36, 0x31, 0x24, 0x23, 0x2A, 0x2D] ∧
  (crcTable 0x07)[0x80]? = some 0x89 ∧ (crcTable 0x07)[0xFF]? = some 0xF3 ∧
  (∀ (c : CrcParams) (s b : Byte), crcUpdateByTable c s b = crcUpdate c s b)

/-- Linearity, and bijectivity exactly for odd polynomials: consequences the spec marks as derived
(41_crc8_engine.md section 4). -/
def Obligations.ShiftingIsLinearAndBijectiveForOddPoly : Prop :=
  (∀ poly a b : Byte, crcShift8 poly (a ^^^ b) = crcShift8 poly a ^^^ crcShift8 poly b) ∧
  (∀ poly : Byte, crcShift8 poly 0x00 = 0x00) ∧
  (∀ (c : CrcParams) (s b : Byte),
    crcUpdate c s b = crcShift8 c.poly s ^^^ crcShift8 c.poly (reflectIf c.refin b)) ∧
  (∀ poly : Byte, Function.Bijective (crcShift8 poly) ↔ poly.getLsbD 0 = true)

/-- The right-shifting design equals the model's, byte by byte and over whole sequences: an equivalence
the spec marks as derived (41_crc8_engine.md section 4). -/
def Obligations.RightShiftingFormIsEquivalent : Prop :=
  (∀ (c : CrcParams) (s b : Byte),
    crcUpdateRight c.poly (reflect8 s) b = reflect8 (crcUpdate { c with refin := true } s b)) ∧
  (∀ (c : CrcParams) (S : List Byte),
    S.foldl (crcUpdateRight c.poly) (reflect8 c.init) ^^^ c.xorout =
      crc8 { c with refin := true, refout := true } S)

/-! ### The accumulators -/

/-- 43_accumulators.md R121: the three rules of a SUM instance, as numbers; in UPDATE nothing but the
register and the response port changes. -/
def Obligations.SumInstanceAddsModulo256 : Prop :=
  (∀ (c : CrcParams) (s : State) (b : Byte),
    exec (.update b) { s with params := { c with alg := .sum } } =
      .next { s with
        params := { c with alg := .sum },
        STATE := BitVec.ofNat 8 ((s.STATE.toNat + b.toNat) % 256), rsp := none } ∧
    exec .digest { s with params := { c with alg := .sum } } =
      .next { s with params := { c with alg := .sum }, rsp := some s.STATE } ∧
    exec .init { s with params := { c with alg := .sum } } =
      .next { s with params := { c with alg := .sum }, STATE := 0x00, rsp := none }) ∧
  sumUpdate 0x03 0x03 = 0x06

/-- 43_accumulators.md R124: the three rules of an XOR instance, bit by bit; in UPDATE nothing but the
register and the response port changes. -/
def Obligations.XorInstanceXorsEveryBit : Prop :=
  (∀ (c : CrcParams) (s : State) (b : Byte),
    (∃ v : Byte,
      exec (.update b) { s with params := { c with alg := .xor } } =
        .next { s with params := { c with alg := .xor }, STATE := v, rsp := none } ∧
      ∀ i : Fin 8, v.getLsbD i = (s.STATE.getLsbD i != b.getLsbD i)) ∧
    exec .digest { s with params := { c with alg := .xor } } =
      .next { s with params := { c with alg := .xor }, rsp := some s.STATE } ∧
    exec .init { s with params := { c with alg := .xor } } =
      .next { s with params := { c with alg := .xor }, STATE := 0x00, rsp := none }) ∧
  xorUpdate 0x03 0x03 = 0x00

/-- The sum checksum of a sequence, which the spec marks as derived (43_accumulators.md section 1): the
sum of the bytes modulo 256, and the spec's two examples. -/
def Obligations.RunAnswersTheSumOfTheSequence : Prop :=
  ∀ c : CrcParams,
    (∀ S : List Byte, ∃ t,
      runEvents (updates S ++ [digestCmd]) (State.fresh { c with alg := .sum }) =
        .next (t, [BitVec.ofNat 8 ((S.map BitVec.toNat).sum % 256)])) ∧
    checksum { c with alg := .sum } [] = 0x00 ∧
    checksum { c with alg := .sum } [0x01, 0x02, 0x03] = 0x06 ∧
    checksum { c with alg := .sum } msg9 = 0xDD

/-- The XOR checksum of a sequence, which the spec marks as derived (43_accumulators.md section 2): each
bit of the answer is the parity of that bit over the bytes, and the spec's two examples. -/
def Obligations.RunAnswersTheXorOfTheSequence : Prop :=
  ∀ c : CrcParams,
    (∀ S : List Byte, ∃ t d,
      runEvents (updates S ++ [digestCmd]) (State.fresh { c with alg := .xor }) = .next (t, [d]) ∧
      ∀ i : Fin 8, d.getLsbD i = (S.countP (fun b => b.getLsbD i) % 2 == 1)) ∧
    checksum { c with alg := .xor } [] = 0x00 ∧
    checksum { c with alg := .xor } [0x01, 0x02, 0x03] = 0x00 ∧
    checksum { c with alg := .xor } msg9 = 0x31

/-- 43_accumulators.md R127: any permutation of the bytes gives an XOR instance the same register and the
same answer. -/
def Obligations.XorChecksumIgnoresByteOrder : Prop :=
  ∀ (c : CrcParams) (s : State) (S S' : List Byte), S.Perm S' → ∃ t t' rs rs',
    runEvents (updates S ++ [digestCmd]) { s with params := { c with alg := .xor } } =
      .next (t, rs) ∧
    runEvents (updates S' ++ [digestCmd]) { s with params := { c with alg := .xor } } =
      .next (t', rs') ∧
    t' = t ∧ rs' = rs

/-- The same for a SUM instance, where the spec resolves a contradiction of its source (90_conflicts.md C1)
and marks the rule as derived (43_accumulators.md section 3); a CRC8 instance depends on the order. -/
def Obligations.SumChecksumIgnoresByteOrder : Prop :=
  (∀ (c : CrcParams) (s : State) (S S' : List Byte), S.Perm S' → ∃ t t' rs rs',
    runEvents (updates S ++ [digestCmd]) { s with params := { c with alg := .sum } } =
      .next (t, rs) ∧
    runEvents (updates S' ++ [digestCmd]) { s with params := { c with alg := .sum } } =
      .next (t', rs') ∧
    t' = t ∧ rs' = rs) ∧
  crc8 rowCrc8.toCrcParams [0x01, 0x02] = 0x1B ∧ crc8 rowCrc8.toCrcParams [0x02, 0x01] = 0x2D

/-- 43_accumulators.md R120: the SUM and XOR units use none of the CRC parameters. Two instances of one
of these kinds with different configurations go through the same registers and give the same responses
over every run; they start at 0x00 and answer the register itself. -/
def Obligations.AccumulatorsIgnoreTheConfiguration : Prop :=
  ∀ (a : Alg), a = .sum ∨ a = .xor →
    ∀ (c c' : CrcParams) (es : List Event), ∃ t t' rs,
      runEvents es (State.fresh { c with alg := a }) = .next (t, rs) ∧
      runEvents es (State.fresh { c' with alg := a }) = .next (t', rs) ∧
      t'.STATE = t.STATE ∧ t'.rsp = t.rsp ∧
      initValue { c with alg := a } = 0x00 ∧
      ∀ v : Byte, dig { c with alg := a } v = v

/-! ### The laws of the interface -/

/-- 40_interface_ops.md R68: UPDATEALL is the fold of its updates, nothing for no bytes; chunks compose;
the rule's example. -/
def Obligations.UpdateAllIsTheFoldOfUpdates : Prop :=
  (∀ (S : List Byte) (s : State),
    runEvents (updates S) s =
      .next ({ s with
        STATE := foldUpd s.params s.STATE S, rsp := (if S = [] then s.rsp else none) }, [])) ∧
  (∀ (P : Params) (s b : Byte) (S S' : List Byte),
    foldUpd P s [] = s ∧ foldUpd P s ([b] ++ S) = foldUpd P (upd P s b) S ∧
    foldUpd P s (S ++ S') = foldUpd P (foldUpd P s S) S') ∧
  (∀ c : CrcParams, foldUpd { c with alg := .sum } 0x00 [0x01, 0x02, 0x03] = 0x06)

/-- 20_memory.md R29: any number of idle steps and DIGEST commands between two chunks changes neither the
register nor the next digest. -/
def Obligations.ChunkingNeverMatters : Prop :=
  ∀ (P : Params) (S1 S2 : List Byte) (mid : List Event), mid.all Event.isPassive = true →
    ∃ t t' rs d,
      runEvents (updates (S1 ++ S2) ++ [digestCmd]) (State.fresh P) = .next (t, [d]) ∧
      runEvents (updates S1 ++ mid ++ updates S2 ++ [digestCmd]) (State.fresh P) =
        .next (t', rs ++ [d]) ∧
      t' = t

/-- 40_interface_ops.md R70: DIGEST twice in a row, or with any idle steps and further DIGESTs between,
answers the same value each time, and the register stands. -/
def Obligations.DigestIsIdempotent : Prop :=
  ∀ (s : State) (mid : List Event), mid.all Event.isPassive = true → ∃ t rs,
    runEvents ([digestCmd] ++ mid ++ [digestCmd]) s = .next (t, rs) ∧
    rs = List.replicate (mid.countP (· != .idle) + 2) (dig s.params s.STATE) ∧
    t.STATE = s.STATE

/-- 40_interface_ops.md R71: the answer of a fresh instance, by its kind. -/
def Obligations.DigestOfNoInput : Prop :=
  ∀ c : CrcParams,
    (∃ t, exec .digest (State.fresh { c with alg := .crc8 }) = .next t ∧
      t.rsp = some ((if c.refout = true then reflect8 c.init else c.init) ^^^ c.xorout)) ∧
    (∃ t, exec .digest (State.fresh { c with alg := .sum }) = .next t ∧ t.rsp = some 0x00) ∧
    (∃ t, exec .digest (State.fresh { c with alg := .xor }) = .next t ∧ t.rsp = some 0x00)

/-- RESET, INITIALIZE or a hardware reset after any run leaves a fresh instance, so that every later
response is the same too: rules the spec marks as derived (40_interface_ops.md section 3,
70_reset_and_hazards.md section 1). -/
def Obligations.ReinitialisingRestoresAFreshInstance : Prop :=
  ∀ (P : Params) (es later : List Event) (e : Event) (data : Byte),
    e = .hwReset ∨ e = .cmd 0b00 data ∨ e = .cmd 0b11 data →
    ∃ rs t qs,
      runEvents (es ++ [e]) (State.fresh P) = .next (State.fresh P, rs) ∧
      runEvents later (State.fresh P) = .next (t, qs) ∧
      runEvents (es ++ [e] ++ later) (State.fresh P) = .next (t, rs ++ qs)

/-- 20_memory.md R35: what every run leaves and answers. The register is the fold of the bytes accepted
since the last re-initialisation, and each response is the checksum of the bytes accepted before it and
no other: nothing is buffered, reordered or lost. -/
def Obligations.EveryRunAnswersTheBytesConsumed : Prop :=
  ∀ (P : Params) (es : List Event) (acc : List Byte) (s : State),
    s.params = P → s.STATE = foldUpd P (initValue P) acc → ∃ t,
      runEvents es s = .next (t, answersOf P acc es) ∧
      t.STATE = foldUpd P (initValue P) (consumedBy acc es) ∧
      t.params = P ∧ t.inputs = s.inputs

/-- Two instances with the same configuration and the same register cannot be told apart by any later
run: no length, no history and no mark is kept (10_state.md section 3, which the spec marks as
derived). -/
def Obligations.SameRegisterSameFuture : Prop :=
  ∀ (es : List Event) (s s' : State), s'.params = s.params → s'.STATE = s.STATE → ∃ t t' rs,
    runEvents es s = .next (t, rs) ∧ runEvents es s' = .next (t', rs) ∧ t'.STATE = t.STATE

/-- An invariant of the model's response port (log 5): when it is valid it shows the digest of the
register as it now stands, and every step keeps that, from every state, and keeps the configuration. -/
def Obligations.EveryStepKeepsResponsePortTrue : Prop :=
  ∀ s t : State, RspIsDigest s → step s = .next t → RspIsDigest t ∧ t.params = s.params

/-- The base case of that invariant: it holds at reset and in every fresh instance. That the response is a
field of State, and that it is `none` there, is the model's form of the response port (log 5); the
instance that `State.reset` stands for is the model's choice (log 2), and the second clause covers every
other. -/
def Obligations.FreshInstanceResponsePortTrue : Prop :=
  RspIsDigest State.reset ∧ ∀ P : Params, RspIsDigest (State.fresh P)

/-! ### Encoding -/

/-- 30_encoding.md R45 and R50: the opcode map is complete. Every word selects exactly one row, the one of
the instruction the decoder reads; every value of `op` is assigned. -/
def Obligations.OpcodeMapIsComplete : Prop :=
  (∀ w : CmdWord, opcodeMap.filter (fun r => r.selects w) = [rowOf (decode w)]) ∧
  (∀ data : Byte,
    decode (cmdWord 0b00 data) = .init ∧ decode (cmdWord 0b01 data) = .update data ∧
    decode (cmdWord 0b10 data) = .digest ∧ decode (cmdWord 0b11 data) = .reset) ∧
  opcodeMap = [⟨0x000, 0x300⟩, ⟨0x100, 0x300⟩, ⟨0x200, 0x300⟩, ⟨0x300, 0x300⟩]

/-- 30_encoding.md R49 and R52: the data field is ignored but for UPDATE, which takes it as an unsigned
byte exactly as presented; the assembled words hold 0x00 there. -/
def Obligations.DataFieldOnlyMattersForUpdate : Prop :=
  (∀ (op : OpCode) (d d' : Byte), op ≠ 0b01 → decode (cmdWord op d) = decode (cmdWord op d')) ∧
  (∀ w : CmdWord, (updateOperand w).toNat = w.toNat % 256) ∧
  (∀ b : Byte, decode (cmdWord 0b01 b) = .update b) ∧
  dataField (encode .init) = 0x00 ∧ dataField (encode .digest) = 0x00 ∧
  dataField (encode .reset) = 0x00

/-- Decode and encode agree, for every instruction with every operand: the decoder, the host's table word
and a step at the port all read back what the encoder wrote; and the other way, an encoded decoding is
the word itself but for ignored bits. (`withFetchWord` and `decodeTableWord` are the model's form of
presenting a word, log 3 and log 14.) -/
def Obligations.DecodeInvertsEncode : Prop :=
  (∀ i : Instr, i.wf = true → decode (encode i) = i ∧
    decodeTableWord 16 (encode i).toNat = some i ∧
    (∀ s : State, step (s.withFetchWord 16 (encode i).toNat) = exec i s)) ∧
  (∀ w : CmdWord,
    encode (decode w) = if opField w = 0b01 then w else w &&& 0x300)

/-- A few words written out from the table (95_test_vectors.md section 2.7). -/
def Obligations.WordsOfTheOpcodeTable : Prop :=
  decode 0b0000000000 = .init ∧ decode 0b0011111111 = .init ∧
  decode 0b0100110001 = .update 0x31 ∧ decode 0b0111111111 = .update 0xFF ∧
  decode 0b1000000000 = .digest ∧ decode 0b1010101011 = .digest ∧
  decode 0b1100000000 = .reset ∧ decode 0b1111111111 = .reset

/-- 30_encoding.md R53: the textual form of each command and event, for every byte in its hexadecimal and
its decimal writing, with a comment after it. -/
def Obligations.TextAssemblesToItsWord : Prop :=
  assemble "INITIALIZE".toList = some [commandPins 0x000] ∧
  assemble "DIGEST".toList = some [commandPins 0x200] ∧
  assemble "RESET".toList = some [commandPins 0x300] ∧
  assemble "IDLE".toList = some [idlePins] ∧
  assemble "HWRESET".toList = some [resetPins] ∧
  assemble "RESET ; a comment\nDIGEST".toList = some [commandPins 0x300, commandPins 0x200] ∧
  assemble "digest".toList = none ∧
  (∀ b : Fin 256,
    assemble ("UPDATE 0x".toList ++
      ["0123456789ABCDEF".toList.getD (b / 16) '0', "0123456789ABCDEF".toList.getD (b % 16) '0']) =
      some [commandPins (0x100 ||| BitVec.ofNat 10 b)]) ∧
  (∀ b : Fin 256,
    assemble ("UPDATE ".toList ++ (Nat.toDigits 10 b)) =
      some [commandPins (0x100 ||| BitVec.ofNat 10 b)])

/-- 30_encoding.md R54: the expansions of the pseudo-operations, what they mean as events, and that idle
steps inserted anywhere in an expansion do not change its effect. -/
def Obligations.PseudoOperationsExpand : Prop :=
  (∀ S : List Byte,
    expandLine (.updateAll (S.map BitVec.toNat)) = some (updateAllPins S) ∧
    (updateAllPins S).map eventOf = updates S) ∧
  (∀ cs : List Char, cs.all (·.toNat < 128) = true →
    expandLine (.updateText cs) =
      some (updateAllPins (cs.map fun ch => BitVec.ofNat 8 ch.toNat))) ∧
  expandLine (.updateAll []) = some [] ∧
  expandLine (.updateText "123456789".toList) = some (updateAllPins msg9) ∧
  expandLine .finalize = expandLine .digest ∧
  expandLine .digest = some [commandPins 0x200] ∧
  assemble "UPDATEALL".toList = some [] ∧
  assemble "UPDATEALL 0x31, 0x32, 51".toList = some (updateAllPins [0x31, 0x32, 0x33]) ∧
  assemble "UPDATEALL \"123456789\"".toList = some (updateAllPins msg9) ∧
  assemble "FINALIZE".toList = some [commandPins 0x200] ∧
  (∀ (S : List Byte) (es : List Event) (s : State), es.filter (· != .idle) = updates S →
    ∃ t t', runEvents es s = .next (t, []) ∧ runEvents (updates S) s = .next (t', []) ∧
      t.STATE = t'.STATE)

/-! ### Instances and the variant table -/

/-- 30_encoding.md R42 and 42_variant_table.md R109: the strap codes of the kinds, `0b11` refused with no
machine made, and the SUM and XOR units selected directly, their configuration straps ignored in
STATE. -/
def Obligations.StrapCodesSelectTheKind : Prop :=
  ∀ (c : CrcParams) (o : OpenRows),
    instantiate { c with alg := 0b00 } = .next (State.fresh { c with alg := .crc8 }) ∧
    instantiate { c with alg := 0b01 } = .next (State.fresh { c with alg := .sum }) ∧
    instantiate { c with alg := 0b10 } = .next (State.fresh { c with alg := .xor }) ∧
    instantiate { c with alg := 0b11 } = .refused .reservedAlg ∧
    instantiateSelection o c .sum = instantiate { c with alg := 0b01 } ∧
    instantiateSelection o c .xor = instantiate { c with alg := 0b10 } ∧
    (∀ name : String, instantiateSelection o c (.variant name) = instantiateByName o name) ∧
    (∀ P : Params, instantiate (strapsOf P) = .next (State.fresh P))

/-- 42_variant_table.md R101 to R105: the five rows the source gives numbers for, and each one's check
value answered by a run over the nine bytes. -/
def Obligations.RowsWithNumbersPassTheirCheck : Prop :=
  ∀ o : OpenRows,
    lookupIn o "CRC-8" = some ⟨⟨0x07, 0x00, false, false, 0x00⟩, "CRC-8", 0xF4⟩ ∧
    lookupIn o "CRC-8/CDMA2000" = some ⟨⟨0x9B, 0xFF, false, false, 0x00⟩, "CRC-8/CDMA2000", 0xDA⟩ ∧
    lookupIn o "CRC-8/DARC" = some ⟨⟨0x39, 0x00, true, true, 0x00⟩, "CRC-8/DARC", 0x15⟩ ∧
    lookupIn o "CRC-8/ROHC" = some ⟨⟨0x07, 0xFF, true, true, 0x00⟩, "CRC-8/ROHC", 0xD0⟩ ∧
    lookupIn o "CRC-8/WCDMA" = some ⟨⟨0x9B, 0x00, true, true, 0x00⟩, "CRC-8/WCDMA", 0x25⟩ ∧
    crc8 ⟨0x07, 0x00, false, false, 0x00⟩ msg9 = 0xF4 ∧
    crc8 ⟨0x9B, 0xFF, false, false, 0x00⟩ msg9 = 0xDA ∧
    crc8 ⟨0x39, 0x00, true, true, 0x00⟩ msg9 = 0x15 ∧
    crc8 ⟨0x07, 0xFF, true, true, 0x00⟩ msg9 = 0xD0 ∧
    crc8 ⟨0x9B, 0x00, true, true, 0x00⟩ msg9 = 0x25

/-- 42_variant_table.md R107: for every row, whatever the open numbers are, the conformance run on a fresh
instance bound to it answers its check value, and the check value influences no response. -/
def Obligations.EveryRowAnswersItsCheckValue : Prop :=
  ∀ (o : OpenRows) (r : Cfg), r ∈ variantTable o → ∃ s t,
    instantiateByName o r.name = .next s ∧
    runEvents (updates msg9 ++ [digestCmd]) s = .next (t, [r.check]) ∧
    r.check = crc8 r.toCrcParams [0x31, 0x32, 0x33, 0x34, 0x35, 0x36, 0x37, 0x38, 0x39] ∧
    ∀ v : Byte, State.fresh (paramsOfCrc ({ r with check := v } : Cfg).toCrcParams) = s

/-- 42_variant_table.md R100 and R108: exactly eight rows under their names, and lookup by exact name: the
row of that name, and for any other string a lookup failure and no machine. -/
def Obligations.LookupIsByExactName : Prop :=
  ∀ o : OpenRows,
    (variantTable o).map Cfg.name =
      ["CRC-8", "CRC-8/ATM", "CRC-8/CDMA2000", "CRC-8/DARC", "CRC-8/ETSI", "CRC-8/ROHC",
       "CRC-8/SMBUS", "CRC-8/WCDMA"] ∧
    (∀ r : Cfg, r ∈ variantTable o → lookupIn o r.name = some r ∧
      instantiateByName o r.name = .next (State.fresh (paramsOfCrc r.toCrcParams))) ∧
    (∀ name : String, name ∉ (variantTable o).map Cfg.name →
      lookupIn o name = none ∧ instantiateByName o name = .refused (.unknownVariant name))

/-- 42_variant_table.md R106: the three rows without numbers stand under their names for any numbers at
all; `CHECK` alone is constrained, to the CRC-8 of "123456789" under the row's own numbers. -/
def Obligations.OpenRowsHoldAnyNumbers : Prop :=
  ∀ atm etsi smbus : CrcParams,
    lookupIn ⟨atm, etsi, smbus⟩ "CRC-8/ATM" = some ⟨atm, "CRC-8/ATM", crc8 atm msg9⟩ ∧
    lookupIn ⟨atm, etsi, smbus⟩ "CRC-8/ETSI" = some ⟨etsi, "CRC-8/ETSI", crc8 etsi msg9⟩ ∧
    lookupIn ⟨atm, etsi, smbus⟩ "CRC-8/SMBUS" = some ⟨smbus, "CRC-8/SMBUS", crc8 smbus msg9⟩

/-- 60_exceptions.md R152: instances do not touch one another. In any interleaving of the steps of `n`
instances, each instance ends in the state, and gives the responses, of its own events run alone. Naming an
instance by its position and writing the interleaving as a schedule is the model's choice (log 15). -/
def Obligations.InterleavedInstancesAreIndependent : Prop :=
  ∀ (n : Nat) (sched : List (Fin n × Event)) (sys : System n), ∃ last rs,
    runSystem sched sys = .next (last, rs) ∧
    ∀ k : Fin n,
      runEvents (sched.filterMap fun x => if x.1 = k then some x.2 else none) sys[k] =
        .next (last[k], rs.filterMap fun x => if x.1 = k then some x.2 else none)
end

