-- ==== Sys2Proof/Laws/Decode.lean ====
section
/-! SUPPORT. The fields of a command word, and what the decoder reads from each operation code. -/

namespace Sys2Proof

open Machine

@[simp] theorem opField_cmdWord (op : OpCode) (d : Byte) : opField (cmdWord op d) = op := by
  ext i hi
  simp only [opField, cmdWord, ← BitVec.getLsbD_eq_getElem, BitVec.getLsbD_extractLsb',
    BitVec.getLsbD_append]
  simp [hi]

@[simp] theorem dataField_cmdWord (op : OpCode) (d : Byte) : dataField (cmdWord op d) = d := by
  ext i hi
  simp only [dataField, cmdWord, ← BitVec.getLsbD_eq_getElem, BitVec.getLsbD_extractLsb',
    BitVec.getLsbD_append]
  simp [hi]

/-- A word is put together from its own fields (R40). -/
@[simp] theorem cmdWord_fields (w : CmdWord) : cmdWord (opField w) (dataField w) = w := by
  ext i hi
  simp only [cmdWord, opField, dataField, ← BitVec.getLsbD_eq_getElem, BitVec.getLsbD_append,
    BitVec.getLsbD_extractLsb']
  by_cases h : i < 8
  · simp [h]
  · simp [h, show i - 8 < 2 by omega, show 8 + (i - 8) = i by omega]

/-- The four operation codes are all there are. -/
theorem opCode_cases (op : OpCode) : op = 0b00 ∨ op = 0b01 ∨ op = 0b10 ∨ op = 0b11 := by
  revert op; decide

@[simp] theorem decode_op00 (d : Byte) : decode (cmdWord 0b00 d) = .init := by simp [decode]
@[simp] theorem decode_op01 (d : Byte) : decode (cmdWord 0b01 d) = .update d := by
  simp [decode, updateOperand]
@[simp] theorem decode_op10 (d : Byte) : decode (cmdWord 0b10 d) = .digest := by simp [decode]
@[simp] theorem decode_op11 (d : Byte) : decode (cmdWord 0b11 d) = .reset := by simp [decode]

/-- A port sample of the command word `w` forms the command of its fields (R43, R44). -/
@[simp] theorem eventOf_commandPins (w : CmdWord) :
    eventOf (commandPins w) = .cmd (opField w) (dataField w) := rfl

@[simp] theorem eventOf_idlePins : eventOf idlePins = .idle := rfl

@[simp] theorem eventOf_pinsOf (e : Event) : eventOf (pinsOf e) = e := by
  cases e <;> rfl

end Sys2Proof
end

