-- ==== Sys2Proof/Laws/Interface.lean ====
section
/-! SUPPORT. The functions of the shared interface, one lemma per kind of instance, and the fold over a
byte sequence. -/

namespace Sys2Proof.Machine

@[simp] theorem reflectIf_true (v : Byte) : reflectIf true v = reflect8 v := rfl
@[simp] theorem reflectIf_false (v : Byte) : reflectIf false v = v := rfl

theorem initValue_of_crc8 {P : Params} (h : P.alg = .crc8) : initValue P = P.init := by
  simp [initValue, h]

theorem initValue_of_sum {P : Params} (h : P.alg = .sum) : initValue P = 0 := by
  simp [initValue, h]

theorem initValue_of_xor {P : Params} (h : P.alg = .xor) : initValue P = 0 := by
  simp [initValue, h]

theorem upd_of_crc8 {P : Params} (h : P.alg = .crc8) (s b : Byte) :
    upd P s b = crcUpdate P.toCrcParams s b := by
  simp [upd, h]

theorem upd_of_sum {P : Params} (h : P.alg = .sum) (s b : Byte) : upd P s b = s + b := by
  simp [upd, h, sumUpdate]

theorem upd_of_xor {P : Params} (h : P.alg = .xor) (s b : Byte) : upd P s b = s ^^^ b := by
  simp [upd, h, xorUpdate]

theorem dig_of_crc8 {P : Params} (h : P.alg = .crc8) (s : Byte) :
    dig P s = crcDigest P.toCrcParams s := by
  simp [dig, h]

theorem dig_of_sum {P : Params} (h : P.alg = .sum) (s : Byte) : dig P s = s := by
  simp [dig, h]

theorem dig_of_xor {P : Params} (h : P.alg = .xor) (s : Byte) : dig P s = s := by
  simp [dig, h]

@[simp] theorem foldUpd_nil (P : Params) (s : Byte) : foldUpd P s [] = s := rfl

@[simp] theorem foldUpd_cons (P : Params) (s b : Byte) (S : List Byte) :
    foldUpd P s (b :: S) = foldUpd P (upd P s b) S := rfl

/-- The fold of the spec (R68) is the library's left fold of `upd`. -/
theorem foldUpd_eq_foldl (P : Params) (s : Byte) (S : List Byte) :
    foldUpd P s S = S.foldl (upd P) s := by
  induction S generalizing s with
  | nil => rfl
  | cons b S ih => simp [ih]

end Sys2Proof.Machine
end

