-- ==== Sys2Proof/Laws/PerInstr.lean ====
section
/-! SUPPORT. Per-instruction families: one lemma a constructor. -/

namespace Sys2Proof.Laws

/-- The word an instruction assembles to selects the instruction's own row of the opcode map
(spec 30_encoding.md R45) and no other. -/
def EncodesItsRow.Statement (i : Instr) : Prop :=
  opcodeMap.filter (fun r => r.selects (encode i)) = [rowOf i]

theorem EncodesItsRow.init : EncodesItsRow.Statement .init := by
  unfold EncodesItsRow.Statement; decide

theorem EncodesItsRow.update (b : Byte) : EncodesItsRow.Statement (.update b) := by
  unfold EncodesItsRow.Statement; revert b; decide

theorem EncodesItsRow.digest : EncodesItsRow.Statement .digest := by
  unfold EncodesItsRow.Statement; decide

theorem EncodesItsRow.reset : EncodesItsRow.Statement .reset := by
  unfold EncodesItsRow.Statement; decide

end Sys2Proof.Laws
end

