-- ==== Sys2Proof/Laws/State.lean ====
section
/-! SUPPORT. One lemma per field per update, so that no proof unfolds a record update. -/

namespace Sys2Proof.Machine

variable (v : Byte) (s : State) (P : Params)

@[simp] theorem writeSTATE_STATE : (writeSTATE v s).STATE = v := rfl
@[simp] theorem writeSTATE_params : (writeSTATE v s).params = s.params := rfl
@[simp] theorem writeSTATE_rsp : (writeSTATE v s).rsp = s.rsp := rfl
@[simp] theorem writeSTATE_inputs : (writeSTATE v s).inputs = s.inputs := rfl

@[simp] theorem respond_STATE : (respond v s).STATE = s.STATE := rfl
@[simp] theorem respond_params : (respond v s).params = s.params := rfl
@[simp] theorem respond_rsp : (respond v s).rsp = some v := rfl
@[simp] theorem respond_inputs : (respond v s).inputs = s.inputs := rfl

@[simp] theorem noResponse_STATE : (noResponse s).STATE = s.STATE := rfl
@[simp] theorem noResponse_params : (noResponse s).params = s.params := rfl
@[simp] theorem noResponse_rsp : (noResponse s).rsp = none := rfl
@[simp] theorem noResponse_inputs : (noResponse s).inputs = s.inputs := rfl

@[simp] theorem loadInitial_STATE : (loadInitial s).STATE = initValue s.params := rfl
@[simp] theorem loadInitial_params : (loadInitial s).params = s.params := rfl
@[simp] theorem loadInitial_rsp : (loadInitial s).rsp = none := rfl
@[simp] theorem loadInitial_inputs : (loadInitial s).inputs = s.inputs := rfl

@[simp] theorem consume_STATE : (consume s).STATE = s.STATE := rfl
@[simp] theorem consume_params : (consume s).params = s.params := rfl
@[simp] theorem consume_rsp : (consume s).rsp = s.rsp := rfl
@[simp] theorem consume_inputs : (consume s).inputs = s.inputs.tail := rfl

@[simp] theorem fresh_STATE : (State.fresh P).STATE = initValue P := rfl
@[simp] theorem fresh_params : (State.fresh P).params = P := rfl
@[simp] theorem fresh_rsp : (State.fresh P).rsp = none := rfl
@[simp] theorem fresh_inputs : (State.fresh P).inputs = [] := rfl

end Sys2Proof.Machine
end

