-- ==== Sys2Proof/Laws/Step.lean ====
section
/-! SUPPORT. What each meaning and each event answers, once, for the proofs to cite. -/

namespace Sys2Proof.Machine

/-- Inversion of `exec`: whatever it answers is one of three next states. -/
theorem exec_cases (i : Instr) (s : State) :
    ((i = .init ∨ i = .reset) ∧ exec i s = .next (loadInitial s)) ∨
    (∃ b, i = .update b ∧
      exec i s = .next (noResponse (writeSTATE (upd s.params s.STATE b) s))) ∨
    (i = .digest ∧ exec i s = .next (respond (dig s.params s.STATE) s)) := by
  cases i with
  | init => exact .inl ⟨.inl rfl, rfl⟩
  | update b => exact .inr (.inl ⟨b, rfl, rfl⟩)
  | digest => exact .inr (.inr ⟨rfl, rfl⟩)
  | reset => exact .inl ⟨.inr rfl, rfl⟩

/-- Inversion of `performEvent`: whatever it answers is one of four next states. -/
theorem performEvent_cases (e : Event) (s : State) :
    performEvent e s = .next (loadInitial s) ∨
    performEvent e s = .next (noResponse s) ∨
    (∃ b, performEvent e s = .next (noResponse (writeSTATE (upd s.params s.STATE b) s))) ∨
    performEvent e s = .next (respond (dig s.params s.STATE) s) := by
  cases e with
  | hwReset => exact .inl rfl
  | idle => exact .inr (.inl rfl)
  | cmd op d =>
    rcases exec_cases (decode (cmdWord op d)) s with ⟨-, h⟩ | ⟨b, -, h⟩ | ⟨-, h⟩
    · exact .inl h
    · exact .inr (.inr (.inl ⟨b, h⟩))
    · exact .inr (.inr (.inr h))

/-- The frame of every event: the parameters and the samples still to be presented stand. -/
theorem performEvent_frame {e : Event} {s t : State} (h : performEvent e s = .next t) :
    t.params = s.params ∧ t.inputs = s.inputs := by
  rcases performEvent_cases e s with h' | h' | ⟨b, h'⟩ | h' <;>
    (rw [h'] at h; cases h; exact ⟨rfl, rfl⟩)

/-- A step with a port sample at the head of the list performs its event on the rest. -/
theorem step_cons (p : Pins) (ps : List Pins) (s : State) :
    step { s with inputs := p :: ps } = performEvent (eventOf p) { s with inputs := ps } := rfl

/-- A step with nothing more to be presented is idle (log 4). -/
theorem step_nil (s : State) : step { s with inputs := [] } = .next (noResponse { s with inputs := [] }) :=
  rfl

end Sys2Proof.Machine
end

