-- ==== Sys2Proof/Laws/Run.lean ====
section
/-! SUPPORT. Runs taken apart: one event or one step at the front, two runs in a row. -/

namespace Sys2Proof.Machine

@[simp] theorem runEvents_nil (s : State) : runEvents [] s = .next (s, []) := rfl

theorem runEvents_cons {e : Event} {es : List Event} {s t u : State} {rs : List Byte}
    (h : performEvent e s = .next t) (hr : runEvents es t = .next (u, rs)) :
    runEvents (e :: es) s = .next (u, t.rsp.toList ++ rs) := by
  simp [runEvents, h, hr]

theorem runSteps_succ {k : Nat} {s t u : State} {rs : List Byte}
    (h : step s = .next t) (hr : runSteps k t = .next (u, rs)) :
    runSteps (k + 1) s = .next (u, t.rsp.toList ++ rs) := by
  simp [runSteps, h, hr]

/-- Two runs in a row are one run: the state is handed over, the responses follow one another. -/
theorem runEvents_append {es fs : List Event} {s t u : State} {rs qs : List Byte}
    (h : runEvents es s = .next (t, rs)) (hr : runEvents fs t = .next (u, qs)) :
    runEvents (es ++ fs) s = .next (u, rs ++ qs) := by
  induction es generalizing s rs with
  | nil => simp only [runEvents_nil, Host.Outcome.next.injEq, Prod.mk.injEq] at h
           obtain ⟨rfl, rfl⟩ := h
           simpa using hr
  | cons e es ih =>
    simp only [runEvents, List.cons_append] at h ⊢
    split at h
    · rename_i t' he
      split at h
      · rename_i u' rs' hes
        simp only [Host.Outcome.next.injEq, Prod.mk.injEq] at h
        obtain ⟨rfl, rfl⟩ := h
        rw [ih hes]
        simp
      · cases h
      · cases h
    · cases h
    · cases h

end Sys2Proof.Machine
end

