-- ==== Sys2Proof/Tests/Slice0.lean ====
section
/-! SUPPORT. The model's own tests. Expected values are the spec's (95_test_vectors.md V1 to V89, worked
out there from the rules), never the model's own answers. The last part shows, for every statement with
hypotheses, concrete values that meet them. -/

namespace Sys2Proof.Tests

open Sys2Proof Sys2Proof.Machine

/-- An instance of row CRC-8/ROHC with the given register (V80 to V85). -/
def rohcAt (v : Byte) : State :=
  { STATE := v, params := paramsOfCrc rowRohc.toCrcParams, rsp := none, inputs := [] }

/-- An instance of another kind with the given register; its configuration straps are all ones (V86). -/
def plainAt (a : Alg) (v : Byte) : State :=
  { STATE := v, rsp := none, inputs := [],
    params := { alg := a, poly := 0xFF, init := 0xFF, refin := true, refout := true, xorout := 0xFF } }

/-! ### Well-formedness: one ill-formed term a check -/

theorem test_wf_refuses_reserved_alg :
    Straps.wf { poly := 0, init := 0, refin := false, refout := false, xorout := 0, alg := 0b11 } =
      false := by decide
theorem test_wf_refuses_update_256 : (AsmLine.update 256).wf = false := by decide
theorem test_wf_refuses_updateAll_256 : (AsmLine.updateAll [255, 256]).wf = false := by decide
theorem test_wf_refuses_text_beyond_ascii :
    (AsmLine.updateText ['1', Char.ofNat 128]).wf = false := by decide
theorem test_wf_accepts_every_instruction (i : Instr) : i.wf = true := by cases i <;> rfl

/-! ### Decoding: words written out from 30_encoding.md R45 (V70 to V78) -/

theorem test_decode_initialize :
    decode 0b0000000000 = .init ∧ decode 0b0011111111 = .init := by decide
theorem test_decode_update :
    decode 0b0100000000 = .update 0x00 ∧ decode 0b0100110001 = .update 0x31 ∧
    decode 0b0111111111 = .update 0xFF := by decide
theorem test_decode_digest :
    decode 0b1000000000 = .digest ∧ decode 0b1010101011 = .digest := by decide
theorem test_decode_reset :
    decode 0b1100000000 = .reset ∧ decode 0b1111111111 = .reset := by decide
theorem test_decodeTableWord :
    decodeTableWord 10 0x131 = some (.update 0x31) ∧ decodeTableWord 16 0x3FF = some .reset ∧
    decodeTableWord 16 0x400 = none := by decide

/-! ### The four commands and the two events, one step each -/

/-- V80. -/
theorem test_initialize_loads_init : exec .init (rohcAt 0x5E) = .next (rohcAt 0xFF) := rfl
/-- V21: the input byte is reversed first. -/
theorem test_update_reflects_input : exec (.update 0x31) (rohcAt 0xFF) = .next (rohcAt 0x5E) := rfl
/-- V51: the sum wraps. -/
theorem test_update_sum_wraps :
    exec (.update 0x01) (plainAt .sum 0xFF) = .next (plainAt .sum 0x00) := rfl
/-- V84: the register stands, the response is reversed. -/
theorem test_digest_answers :
    exec .digest (rohcAt 0x5E) = .next { rohcAt 0x5E with rsp := some 0x7A } := rfl
/-- V87. -/
theorem test_digest_xor :
    exec .digest (plainAt .xor 0x00) = .next { plainAt .xor 0x00 with rsp := some 0x00 } := rfl
/-- V86: the straps of a SUM instance are ignored. -/
theorem test_reset_sum : exec .reset (plainAt .sum 0x06) = .next (plainAt .sum 0x00) := rfl
/-- V81. -/
theorem test_reset_crc : exec .reset (rohcAt 0x5E) = .next (rohcAt 0xFF) := rfl
/-- V83: nothing is presented. -/
theorem test_idle_step : step (rohcAt 0x5E) = .next (rohcAt 0x5E) := rfl
/-- V85: reset wins over the command beside it. -/
theorem test_hardware_reset_wins :
    step (present [{ rst := true, cmdValid := true, cmdOp := 0b01, cmdData := 0x32 }] (rohcAt 0x5E)) =
      .next (rohcAt 0xFF) := rfl
/-- V20, as the first command after reset: row CRC-8, UPDATE 31. -/
theorem test_first_command_after_reset :
    step (State.reset.withFetchWord 16 0x131) = .next { State.reset with STATE := 0x97 } := rfl
/-- V55, V57. -/
theorem test_xor_update : xorUpdate 0x5A 0x5A = 0x00 ∧ xorUpdate 0x5A 0xFF = 0xA5 := by decide

/-! ### The engine -/

/-- V10 to V19: a nibble swap would give 13 for 31. -/
theorem test_reflect8 :
    reflect8 0x31 = 0x8C ∧ reflect8 0x0F = 0xF0 ∧ reflect8 0x02 = 0x40 ∧ reflect8 0x96 = 0x69 := by
  decide
/-- V20, its trace: 31, 62, C4, 8F, 19. -/
theorem test_crcShift :
    crcShift 0x07 0x31 = 0x62 ∧ crcShift 0x07 0x62 = 0xC4 ∧ crcShift 0x07 0xC4 = 0x8F ∧
    crcShift 0x07 0x8F = 0x19 := by decide
/-- V36: reflect, then XOR. -/
theorem test_digest_order : crcDigest ⟨0x07, 0x01, false, true, 0x55⟩ 0x01 = 0xD5 := by decide
/-- V1 to V5: the check values of the source. -/
theorem test_check_values :
    crc8 rowCrc8.toCrcParams msg9 = 0xF4 ∧ crc8 rowRohc.toCrcParams msg9 = 0xD0 ∧
    crc8 rowWcdma.toCrcParams msg9 = 0x25 ∧ crc8 rowCdma2000.toCrcParams msg9 = 0xDA ∧
    crc8 rowDarc.toCrcParams msg9 = 0x15 := by decide +kernel
/-- V31, V32: unequal reflection flags and a final XOR; V37. -/
theorem test_mixed_parameters :
    crc8 ⟨0x07, 0x00, false, true, 0x55⟩ msg9 = 0x7A ∧
    crc8 ⟨0x07, 0x00, true, false, 0x55⟩ msg9 = 0x51 ∧
    crc8 ⟨0x1D, 0xFF, false, false, 0xFF⟩ msg9 = 0x4B := by decide +kernel
/-- V41: the first entries of the table of 9B, and V42 at FF. -/
theorem test_table_entries :
    (crcTable 0x9B).take 4 = [0x00, 0x9B, 0xAD, 0x36] ∧ (crcTable 0x39)[0xFF]? = some 0x63 := by
  decide +kernel

/-! ### Instances and text -/

/-- V88. -/
theorem test_reserved_alg_is_refused :
    instantiate { rowCrc8.toCrcParams with alg := 0b11 } = .refused .reservedAlg := rfl
/-- V89. -/
theorem test_unknown_name_is_refused (o : OpenRows) :
    instantiateByName o "CRC-8/FOO" = .refused (.unknownVariant "CRC-8/FOO") := rfl
/-- Program 4, lines 4 to 6 and 9, in the textual form. -/
theorem test_assemble :
    assemble "; program 4\nDIGEST\nUPDATE 0xA5\n\nFINALIZE ; DIGEST\nHWRESET".toList =
      some [commandPins 0x200, commandPins 0x1A5, commandPins 0x200, resetPins] := by decide +kernel
theorem test_assemble_updateAll :
    assemble "UPDATEALL 0x01, 2 ,0x03\nUPDATEALL\nUPDATEALL \"1;2\"".toList =
      some [commandPins 0x101, commandPins 0x102, commandPins 0x103,
            commandPins 0x131, commandPins 0x13B, commandPins 0x132] := by decide +kernel
theorem test_assemble_refuses :
    assemble "UPDATE 256".toList = none ∧ assemble "update 1".toList = none ∧
    assemble "DIGEST 0x00".toList = none ∧ assemble "UPDATE".toList = none := by decide +kernel

/-! ### Witnesses: the hypotheses of the statements are met -/

theorem witness_EveryEventCompletesDeterministically :
    ({ rohcAt 0x5E with rsp := some 0x7A } : State).params = (rohcAt 0x5E).params ∧
    ({ rohcAt 0x5E with rsp := some 0x7A } : State).STATE = (rohcAt 0x5E).STATE := ⟨rfl, rfl⟩

theorem witness_StepRunsThePresentedCommand :
    decodeTableWord 16 0x000 = some .init ∧ decodeTableWord 16 0x1FF = some (.update 0xFF) ∧
    decodeTableWord 16 0x200 = some .digest ∧ decodeTableWord 16 0x3FF = some .reset := by decide

theorem witness_InitializeLoadsInitialValue :
    exec .init (rohcAt 0x5E) = .next (rohcAt 0xFF) ∧
    exec .init (rohcAt 0xFF) = .next (rohcAt 0xFF) := ⟨rfl, rfl⟩

theorem witness_CrcUpdateCornerCases :
    (0x8C : Byte) ^^^ reflectIf rowRohc.refin 0x31 = 0x00 := by decide

theorem witness_CrcDigestIsInvertible : crcDigest rowRohc.toCrcParams 0x0B = 0xD0 := by decide

theorem witness_permutation : ([0x01, 0x02, 0x03] : List Byte).Perm [0x03, 0x01, 0x02] := by decide

theorem witness_AccumulatorsIgnoreTheConfiguration :
    (Alg.sum = .sum ∨ Alg.sum = .xor) ∧ (Alg.xor = .sum ∨ Alg.xor = .xor) :=
  ⟨.inl rfl, .inr rfl⟩

theorem witness_passive :
    ([.idle, digestCmd, .cmd 0b10 0xFF] : List Event).all Event.isPassive = true := by decide

theorem witness_ReinitialisingRestoresAFreshInstance (data : Byte) :
    (Event.hwReset = .hwReset ∨ Event.hwReset = .cmd 0b00 data ∨ Event.hwReset = .cmd 0b11 data) ∧
    (Event.cmd 0b00 data = .hwReset ∨ Event.cmd 0b00 data = .cmd 0b00 data ∨
      Event.cmd 0b00 data = .cmd 0b11 data) ∧
    (Event.cmd 0b11 data = .hwReset ∨ Event.cmd 0b11 data = .cmd 0b00 data ∨
      Event.cmd 0b11 data = .cmd 0b11 data) :=
  ⟨.inl rfl, .inr (.inl rfl), .inr (.inr rfl)⟩

/-- The register of ROHC after the byte 31 (V21). -/
theorem witness_EveryRunAnswersTheBytesConsumed :
    (rohcAt 0x5E).params = paramsOfCrc rowRohc.toCrcParams ∧
    (rohcAt 0x5E).STATE =
      foldUpd (paramsOfCrc rowRohc.toCrcParams) (initValue (paramsOfCrc rowRohc.toCrcParams)) [0x31] :=
  ⟨rfl, rfl⟩

theorem witness_SameRegisterSameFuture :
    (present [resetPins] (rohcAt 0x5E)).params = (rohcAt 0x5E).params ∧
    (present [resetPins] (rohcAt 0x5E)).STATE = (rohcAt 0x5E).STATE := ⟨rfl, rfl⟩

/-- The invariant holds with a response on the port, before a DIGEST step that gives one. -/
theorem witness_EveryStepKeepsResponsePortTrue :
    RspIsDigest { present [commandPins 0x200] (rohcAt 0x5E) with rsp := some 0x7A } ∧
    step { present [commandPins 0x200] (rohcAt 0x5E) with rsp := some 0x7A } =
      .next { rohcAt 0x5E with rsp := some 0x7A } :=
  ⟨fun _ h => Option.some.inj h.symm, rfl⟩

theorem witness_DataFieldOnlyMattersForUpdate :
    (0b00 : OpCode) ≠ 0b01 ∧ (0b10 : OpCode) ≠ 0b01 ∧ (0b11 : OpCode) ≠ 0b01 := by decide

theorem witness_DecodeInvertsEncode :
    Instr.init.wf = true ∧ (Instr.update 0x00).wf = true ∧ (Instr.update 0xFF).wf = true ∧
    Instr.digest.wf = true ∧ Instr.reset.wf = true := by decide

theorem witness_PseudoOperationsExpand :
    ("123456789".toList.all (·.toNat < 128) = true ∧ [Char.ofNat 127].all (·.toNat < 128) = true) ∧
    ([.idle, .cmd 0b01 0x31, .idle, .cmd 0b01 0x32] : List Event).filter (· != .idle) =
      updates [0x31, 0x32] := by decide

theorem witness_rows (o : OpenRows) :
    rowCrc8 ∈ variantTable o ∧ openRow "CRC-8/ATM" o.atm ∈ variantTable o ∧
    rowWcdma ∈ variantTable o := by
  simp [variantTable]

theorem witness_LookupIsByExactName (o : OpenRows) :
    "CRC-8/FOO" ∉ (variantTable o).map Cfg.name ∧ "" ∉ (variantTable o).map Cfg.name := by
  simp [variantTable, rowCrc8, rowCdma2000, rowDarc, rowRohc, rowWcdma, openRow]

end Sys2Proof.Tests
end

section
/-! PROOFS. The step function is total and deterministic (spec 00_scope.md R5). -/

namespace Sys2Proof.Machine

/-- A command's answer is fixed by `P` and `STATE`: one new register value and one response serve every
state that holds them, whatever stands at its ports. -/
theorem exec_uniform (i : Instr) (P : Params) (v : Byte) :
    ∃ v' r, ∀ s : State, s.params = P → s.STATE = v →
      exec i s = .next { s with STATE := v', rsp := r } := by
  cases i with
  | init => exact ⟨initValue P, none, by rintro s rfl rfl; rfl⟩
  | update b => exact ⟨upd P v b, none, by rintro s rfl rfl; rfl⟩
  | digest => exact ⟨v, some (dig P v), by rintro s rfl rfl; rfl⟩
  | reset => exact ⟨initValue P, none, by rintro s rfl rfl; rfl⟩

/-- An event's answer is fixed by `P` and `STATE`, and it writes nothing but the register and the
response (R4, R5). -/
theorem performEvent_uniform (e : Event) (P : Params) (v : Byte) :
    ∃ v' r, ∀ s : State, s.params = P → s.STATE = v →
      performEvent e s = .next { s with STATE := v', rsp := r } := by
  cases e with
  | hwReset => exact ⟨initValue P, none, by rintro s rfl rfl; rfl⟩
  | idle => exact ⟨v, none, by rintro s rfl rfl; rfl⟩
  | cmd op d => exact exec_uniform (decode (cmdWord op d)) P v

/-- Settles O1: the one answer that serves every state with the same `P` and `STATE`. -/
theorem everyEventCompletesDeterministically : Obligations.EveryEventCompletesDeterministically := by
  intro e s
  obtain ⟨v', r, answer⟩ := performEvent_uniform e s.params s.STATE
  exact ⟨_, answer s rfl rfl, fun s' hP hS => ⟨_, answer s' hP hS, rfl, rfl⟩⟩

end Sys2Proof.Machine
end

section
/-! PROOFS. What the events keep over a run, and the initial value (spec 10_state.md R14, R19, R20). -/

namespace Sys2Proof.Machine

/-- The induction over runs: what holds at the start and is kept by every event holds at the end, and the
run reaches its end. -/
theorem exists_runEvents_of_kept {I : State → Prop}
    (kept : ∀ {e s t}, performEvent e s = .next t → I s → I t)
    (es : List Event) {s : State} (start : I s) :
    ∃ t rs, runEvents es s = .next (t, rs) ∧ I t := by
  induction es generalizing s with
  | nil => exact ⟨s, [], runEvents_nil s, start⟩
  | cons e es ih =>
    obtain ⟨t, event, -⟩ := everyEventCompletesDeterministically e s
    obtain ⟨u, rs, rest, last⟩ := ih (kept event start)
    exact ⟨u, _, runEvents_cons event rest, last⟩

/-- Settles O14: holding the parameters of the first state is kept by every event, by the frame of
`performEvent`. -/
theorem nothingChangesTheParameters : Obligations.NothingChangesTheParameters := by
  intro es s
  exact exists_runEvents_of_kept (I := fun t => t.params = s.params)
    (fun event same => (performEvent_frame event).1.trans same) es rfl

/-- Settles O12: the kinds by the lemmas of `initValue`; the state after a hardware reset is
`loadInitial`. -/
theorem resetValueByKind : Obligations.ResetValueByKind := by
  intro c s
  refine ⟨initValue_of_crc8 rfl, initValue_of_sum rfl, initValue_of_xor rfl, fun P => ?fresh, ?reset⟩
  case fresh => simp [rspValid]
  case reset => exact ⟨loadInitial s, rfl, loadInitial_STATE s, by simp [rspValid]⟩

end Sys2Proof.Machine
end

section
/-! PROOFS. What a run has accepted and answered (spec 20_memory.md R29, R35). -/

namespace Sys2Proof.Machine

/-! ### The four commands, by operation code (40_interface_ops.md R60) -/

@[simp] theorem performEvent_op00 (d : Byte) (s : State) :
    performEvent (.cmd 0b00 d) s = .next (loadInitial s) :=
  congrArg (exec · s) (decode_op00 d)

@[simp] theorem performEvent_op01 (b : Byte) (s : State) :
    performEvent (.cmd 0b01 b) s = .next (noResponse (writeSTATE (upd s.params s.STATE b) s)) :=
  congrArg (exec · s) (decode_op01 b)

@[simp] theorem performEvent_op10 (d : Byte) (s : State) :
    performEvent (.cmd 0b10 d) s = .next (respond (dig s.params s.STATE) s) :=
  congrArg (exec · s) (decode_op10 d)

@[simp] theorem performEvent_op11 (d : Byte) (s : State) :
    performEvent (.cmd 0b11 d) s = .next (loadInitial s) :=
  congrArg (exec · s) (decode_op11 d)

/-! ### Bytes accepted and answers given, part by part -/

theorem foldUpd_append (P : Params) (s : Byte) (S S' : List Byte) :
    foldUpd P s (S ++ S') = foldUpd P (foldUpd P s S) S' := by
  simp only [foldUpd_eq_foldl, List.foldl_append]

@[simp] theorem consumedBy_nil (acc : List Byte) : consumedBy acc [] = acc := rfl

@[simp] theorem answersOf_nil (P : Params) (acc : List Byte) : answersOf P acc [] = [] := rfl

theorem consumedBy_cons (acc : List Byte) (e : Event) (es : List Event) :
    consumedBy acc (e :: es) = consumedBy (consumedBy acc [e]) es := by
  cases e <;> rfl

theorem answersOf_cons (P : Params) (acc : List Byte) (e : Event) (es : List Event) :
    answersOf P acc (e :: es) = answersOf P acc [e] ++ answersOf P (consumedBy acc [e]) es := by
  cases e with
  | hwReset => rfl
  | idle => rfl
  | cmd op d => rcases opCode_cases op with rfl | rfl | rfl | rfl <;> rfl

theorem consumedBy_append (acc : List Byte) (es fs : List Event) :
    consumedBy acc (es ++ fs) = consumedBy (consumedBy acc es) fs := by
  induction es generalizing acc with
  | nil => rfl
  | cons e es ih => rw [List.cons_append, consumedBy_cons, ih, ← consumedBy_cons]

@[simp] theorem consumedBy_updates (acc S : List Byte) : consumedBy acc (updates S) = acc ++ S := by
  induction S generalizing acc with
  | nil => simp [updates]
  | cons b S ih => simpa [updates, consumedBy] using ih (acc ++ [b])

@[simp] theorem answersOf_updates (P : Params) (acc S : List Byte) :
    answersOf P acc (updates S) = [] := by
  induction S generalizing acc with
  | nil => rfl
  | cons b S ih => exact ih (acc ++ [b])

theorem consumedBy_of_isPassive {e : Event} (passive : Event.isPassive e = true) (acc : List Byte) :
    consumedBy acc [e] = acc := by
  cases e with
  | hwReset => cases passive
  | idle => rfl
  | cmd op d =>
    obtain rfl : op = 0b10 := by simpa [Event.isPassive] using passive
    rfl

theorem consumedBy_of_all_isPassive {es : List Event} (passive : es.all Event.isPassive = true)
    (acc : List Byte) : consumedBy acc es = acc := by
  induction es with
  | nil => rfl
  | cons e es ih =>
    obtain ⟨head, tail⟩ : Event.isPassive e = true ∧ es.all Event.isPassive = true := by
      simpa only [List.all_cons, Bool.and_eq_true] using passive
    rw [consumedBy_cons, consumedBy_of_isPassive head, ih tail]

/-! ### The invariant of R35 -/

/-- The unit is bound to `P` and its register holds what the accepted bytes `acc` leave there. -/
structure HoldsBytes (P : Params) (acc : List Byte) (s : State) : Prop where
  params : s.params = P
  register : s.STATE = foldUpd P (initValue P) acc

theorem holdsBytes_fresh (P : Params) : HoldsBytes P [] (State.fresh P) := ⟨rfl, rfl⟩

/-- DIGEST answers the checksum of the bytes the register holds (R66, R69). -/
theorem HoldsBytes.dig_eq {P : Params} {acc : List Byte} {s : State} (holds : HoldsBytes P acc s) :
    dig s.params s.STATE = checksum P acc := by
  rw [holds.params, holds.register, checksum]

/-- UPDATE puts its byte behind the accepted ones (R65, R68). -/
theorem HoldsBytes.upd_eq {P : Params} {acc : List Byte} {s : State} (holds : HoldsBytes P acc s)
    (b : Byte) : upd s.params s.STATE b = foldUpd P (initValue P) (acc ++ [b]) := by
  rw [holds.params, holds.register, foldUpd_append, foldUpd_cons, foldUpd_nil]

/-- Every re-initialisation forgets the accepted bytes (R64, R67; 70_reset_and_hazards.md R160). -/
theorem HoldsBytes.after_loadInitial {P : Params} {acc : List Byte} {s : State}
    (holds : HoldsBytes P acc s) : HoldsBytes P [] (loadInitial s) :=
  ⟨holds.params, congrArg initValue holds.params⟩

/-- One event keeps the register at the bytes accepted, and its response is the one due. -/
theorem HoldsBytes.after_performEvent {P : Params} {acc : List Byte} {s : State}
    (holds : HoldsBytes P acc s) (e : Event) :
    ∃ t, performEvent e s = .next t ∧ HoldsBytes P (consumedBy acc [e]) t ∧
      t.rsp.toList = answersOf P acc [e] := by
  cases e with
  | hwReset => exact ⟨_, rfl, holds.after_loadInitial, rfl⟩
  | idle => exact ⟨_, rfl, ⟨holds.params, holds.register⟩, rfl⟩
  | cmd op d =>
    rcases opCode_cases op with rfl | rfl | rfl | rfl
    · exact ⟨_, performEvent_op00 d s, holds.after_loadInitial, rfl⟩
    · exact ⟨_, performEvent_op01 d s, ⟨holds.params, holds.upd_eq d⟩, rfl⟩
    · exact ⟨_, performEvent_op10 d s, ⟨holds.params, holds.register⟩,
        congrArg (fun v => [v]) holds.dig_eq⟩
    · exact ⟨_, performEvent_op11 d s, holds.after_loadInitial, rfl⟩

/-- The invariant over a run: by induction on the events, one event at the front. -/
theorem HoldsBytes.after_runEvents {P : Params} {acc : List Byte} {s : State}
    (holds : HoldsBytes P acc s) (es : List Event) :
    ∃ t, runEvents es s = .next (t, answersOf P acc es) ∧ HoldsBytes P (consumedBy acc es) t ∧
      t.inputs = s.inputs := by
  induction es generalizing acc s with
  | nil => exact ⟨s, rfl, holds, rfl⟩
  | cons e es ih =>
    obtain ⟨t, event, holdsAfter, response⟩ := holds.after_performEvent e
    obtain ⟨u, run, holdsLast, inputs⟩ := ih holdsAfter
    rw [answersOf_cons, consumedBy_cons acc e es, ← response]
    exact ⟨u, runEvents_cons event run, holdsLast, inputs.trans (performEvent_frame event).2⟩

/-- Settles O44: the invariant `HoldsBytes` over the run. -/
theorem everyRunAnswersTheBytesConsumed : Obligations.EveryRunAnswersTheBytesConsumed := by
  intro P es acc s params register
  obtain ⟨t, run, last, inputs⟩ := HoldsBytes.after_runEvents ⟨params, register⟩ es
  exact ⟨t, run, last.register, last.params, inputs⟩

/-! ### Chunks -/

/-- A response overwrites the one before it: the rest of the state decides what is left. -/
theorem respond_congr {s t : State} (register : s.STATE = t.STATE) (params : s.params = t.params)
    (inputs : s.inputs = t.inputs) (v : Byte) : respond v s = respond v t := by
  simp only [respond, register, params, inputs]

/-- A run from `State.fresh` with a DIGEST at its end: the last state is a function of the bytes
accepted alone, and the last response is their checksum. -/
theorem runEvents_fresh_digestCmd (P : Params) (es : List Event) :
    runEvents (es ++ [digestCmd]) (State.fresh P) =
      .next (respond (checksum P (consumedBy [] es))
          (writeSTATE (foldUpd P (initValue P) (consumedBy [] es)) (State.fresh P)),
        answersOf P [] es ++ [checksum P (consumedBy [] es)]) := by
  obtain ⟨t, run, holds, inputs⟩ := (holdsBytes_fresh P).after_runEvents es
  have digest : performEvent digestCmd t = .next (respond (checksum P (consumedBy [] es)) t) := by
    rw [digestCmd, performEvent_op10, holds.dig_eq]
  rw [← respond_congr (t := writeSTATE _ (State.fresh P)) holds.register holds.params inputs]
  exact runEvents_append run (runEvents_cons digest (runEvents_nil _))

/-- Settles O40: with the passive events or without them the bytes accepted are `S1 ++ S2`. -/
theorem chunkingNeverMatters : Obligations.ChunkingNeverMatters := by
  intro P S1 S2 mid passive
  have inChunks : consumedBy [] (updates S1 ++ mid ++ updates S2) = S1 ++ S2 := by
    rw [consumedBy_append, consumedBy_append, consumedBy_of_all_isPassive passive]
    simp
  have whole := runEvents_fresh_digestCmd P (updates (S1 ++ S2))
  have chunked := runEvents_fresh_digestCmd P (updates S1 ++ mid ++ updates S2)
  rw [consumedBy_updates, answersOf_updates, List.nil_append, List.nil_append] at whole
  rw [inChunks] at chunked
  exact ⟨_, _, _, _, whole, chunked, rfl⟩

end Sys2Proof.Machine
end

section
/-! PROOFS. The event the ports form in a step, and what it does (spec 30_encoding.md R44 to R48). -/

namespace Sys2Proof.Machine

/-- Settles O4: the two tests of `eventOf`, on each of the three kinds of port sample. -/
theorem portsFormTheEvent : Obligations.PortsFormTheEvent :=
  fun _ _ _ => ⟨rfl, rfl, rfl⟩

/-- Settles O6: the command ports stand in no part of the event `Idle`. -/
theorem idleStepHoldsTheRegister : Obligations.IdleStepHoldsTheRegister :=
  fun _ _ _ => rfl

/-- Settles O7: the event of the command completes, and performing it is `exec` of the decoded word. -/
theorem everyPresentedCommandIsPerformed : Obligations.EveryPresentedCommandIsPerformed := by
  intro op data s
  obtain ⟨t, performed, -⟩ := everyEventCompletesDeterministically (.cmd op data) s
  exact ⟨t, performed, performed⟩

/-- Settles O8: of the events and the four operation codes only `0b10` responds. -/
theorem onlyDigestResponds : Obligations.OnlyDigestResponds := by
  intro e s
  cases e with
  | hwReset => exact ⟨_, rfl, rfl⟩
  | idle => exact ⟨_, rfl, rfl⟩
  | cmd op d =>
    rcases opCode_cases op with rfl | rfl | rfl | rfl
    · exact ⟨_, performEvent_op00 d s, rfl⟩
    · exact ⟨_, performEvent_op01 d s, rfl⟩
    · exact ⟨_, performEvent_op10 d s, rfl, rfl⟩
    · exact ⟨_, performEvent_op11 d s, rfl⟩

end Sys2Proof.Machine
end

section
/-! PROOFS. The opcode map and the data field (spec 30_encoding.md R45, R49, R50, R52). -/

namespace Sys2Proof

open Machine

/-- The mask of the opcode map keeps the operation code and clears the data field (R45). -/
@[simp] theorem cmdWord_and_mask (op : OpCode) (d : Byte) : cmdWord op d &&& 0x300 = cmdWord op 0 :=
  calc cmdWord op d &&& 0x300
    _ = (op ++ d) &&& ((0b11 : OpCode) ++ (0x00 : Byte)) := rfl
    _ = (op &&& 0b11) ++ (d &&& 0x00) := BitVec.and_append
    _ = cmdWord op 0 := congrArg₂ (· ++ ·) BitVec.and_allOnes BitVec.and_zero

/-- Which row of the map a word selects is decided by its operation code (R45, R50). -/
theorem filter_selects_cmdWord (op : OpCode) (d : Byte) :
    opcodeMap.filter (fun r => r.selects (cmdWord op d)) =
      opcodeMap.filter (fun r => r.selects (cmdWord op 0)) := by
  refine List.filter_congr fun r mem => ?_
  have mask : r.mask = 0x300 := by revert r; decide
  rw [OpRow.selects, OpRow.selects, mask, cmdWord_and_mask, cmdWord_and_mask]

/-- Settles O48: a word is put together from its fields, and each operation code is looked up in the
map with data field 0. -/
theorem opcodeMapIsComplete : Obligations.OpcodeMapIsComplete := by
  refine ⟨fun w => ?selected, fun d => ?decoded, rfl⟩
  case selected =>
    rw [← cmdWord_fields w, filter_selects_cmdWord]
    rcases opCode_cases (opField w) with h | h | h | h <;> rw [h]
    · rw [decode_op00]; rfl
    · rw [decode_op01]; rfl
    · rw [decode_op10]; rfl
    · rw [decode_op11]; rfl
  case decoded => exact ⟨decode_op00 d, decode_op01 d, decode_op10 d, decode_op11 d⟩

/-- Settles O49: the decoder's lemma of each operation code but `0b01` names no data byte. -/
theorem dataFieldOnlyMattersForUpdate : Obligations.DataFieldOnlyMattersForUpdate := by
  refine ⟨fun op d d' notUpdate => ?ignored, fun w => ?operand, decode_op01, rfl, rfl, rfl⟩
  case ignored =>
    rcases opCode_cases op with rfl | rfl | rfl | rfl
    · rw [decode_op00, decode_op00]
    · exact absurd rfl notUpdate
    · rw [decode_op10, decode_op10]
    · rw [decode_op11, decode_op11]
  case operand => simp [updateOperand, dataField]

end Sys2Proof
end

section
/-! PROOFS. What straps and selection make (spec 30_encoding.md R42; 42_variant_table.md R109). -/

namespace Sys2Proof.Machine

/-- The strap code of a kind selects that kind (R42). -/
@[simp] theorem algOfCode_algCode (a : Alg) : algOfCode (algCode a) = some a := by
  cases a <;> rfl

/-- The straps that carry `P` are read back as `P` (R41). -/
@[simp] theorem paramsOfStraps_strapsOf (P : Params) : paramsOfStraps (strapsOf P) = some P := by
  simp [paramsOfStraps, strapsOf]

/-- Straps that carry `P` make the fresh unit of `P`. -/
theorem instantiate_of_paramsOfStraps {x : Straps} {P : Params} (carried : paramsOfStraps x = some P) :
    instantiate x = .next (State.fresh P) := by
  simp [instantiate, carried]

/-- Settles O54: each code by evaluation, and every parameter record by reading its straps back. -/
theorem strapCodesSelectTheKind : Obligations.StrapCodesSelectTheKind := by
  intro c o
  refine ⟨?_, ?_, ?_, rfl, ?_, ?_, fun _ => rfl, fun P => ?_⟩
  · exact instantiate_of_paramsOfStraps rfl
  · exact instantiate_of_paramsOfStraps rfl
  · exact instantiate_of_paramsOfStraps rfl
  · exact (instantiate_of_paramsOfStraps rfl).symm
  · exact (instantiate_of_paramsOfStraps rfl).symm
  · exact instantiate_of_paramsOfStraps (paramsOfStraps_strapsOf P)

end Sys2Proof.Machine
end

section
/-! PROOFS. The pseudo-operations (spec 30_encoding.md R54). -/

namespace Sys2Proof.Machine

/-- The assembled word of UPDATE has operation code `0b01` and the byte in its data field (R40, R53). -/
theorem encode_update (b : Byte) : encode (.update b) = cmdWord 0b01 b := rfl

@[simp] theorem eventOf_commandOf_update (b : Byte) :
    eventOf (commandOf (.update b)) = .cmd 0b01 b := by
  simp [commandOf, encode_update]

@[simp] theorem map_eventOf_updateAllPins (S : List Byte) :
    (updateAllPins S).map eventOf = updates S := by
  simp [updateAllPins, updates]

/-- A line stands for its steps when it is well formed. -/
theorem expandLine_of_wf {l : AsmLine} (wf : l.wf = true) : expandLine l = some (stepsOfLine l) :=
  if_pos wf

/-- UPDATEALL of bytes as they are written expands to their UPDATEs in order. -/
theorem expandLine_updateAll (S : List Byte) :
    expandLine (.updateAll (S.map BitVec.toNat)) = some (updateAllPins S) := by
  have wf : (AsmLine.updateAll (S.map BitVec.toNat)).wf = true := by
    simpa [AsmLine.wf] using fun b _ => b.isLt
  rw [expandLine_of_wf wf, stepsOfLine, List.map_map]
  simp [Function.comp_def]

/-- A run of UPDATEs with idle steps anywhere between gives no response and folds the bytes into the
register: an idle step holds the register, and what is left are the UPDATEs in order. -/
theorem runEvents_of_filter_idle {es : List Event} {S : List Byte}
    (spaced : es.filter (· != .idle) = updates S) (s : State) :
    ∃ t, runEvents es s = .next (t, []) ∧ t.STATE = foldUpd s.params s.STATE S := by
  induction es generalizing S s with
  | nil =>
    obtain rfl : S = [] := by simpa [updates] using spaced.symm
    exact ⟨s, rfl, rfl⟩
  | cons e es ih =>
    by_cases isIdle : e = .idle
    · subst isIdle
      obtain ⟨t, run, register⟩ := ih spaced (noResponse s)
      exact ⟨t, runEvents_cons rfl run, register⟩
    · rw [List.filter_cons_of_pos (by simpa using isIdle)] at spaced
      obtain ⟨b, S, rfl, rfl, later⟩ := List.map_eq_cons_iff.mp spaced.symm
      obtain ⟨t, run, register⟩ := ih later.symm (noResponse (writeSTATE (upd s.params s.STATE b) s))
      exact ⟨t, runEvents_cons (performEvent_op01 b s) run, register⟩

/-- UPDATEs without idle steps are the case of none inserted. -/
theorem filter_idle_updates (S : List Byte) : (updates S).filter (· != .idle) = updates S := by
  simp [updates]

/-- Settles O53: the expansions by the lemmas of `expandLine`, the texts by evaluation, and both runs of
the last part fold the same bytes. -/
theorem pseudoOperationsExpand : Obligations.PseudoOperationsExpand := by
  refine ⟨fun S => ⟨expandLine_updateAll S, map_eventOf_updateAllPins S⟩,
    fun cs ascii => expandLine_of_wf ascii, rfl, ?digits, rfl, rfl, ?nothing, ?bytes, ?text, ?finalize,
    fun S es s spaced => ?idles⟩
  case digits | nothing | bytes | text | finalize => decide
  case idles =>
    obtain ⟨t, run, register⟩ := runEvents_of_filter_idle spaced s
    obtain ⟨t', run', register'⟩ := runEvents_of_filter_idle (filter_idle_updates S) s
    exact ⟨t, t', run, run', register.trans register'.symm⟩

end Sys2Proof.Machine
end

section
/-! PROOFS. The textual form of the commands (spec 30_encoding.md R53). -/

namespace Sys2Proof.Machine

/-! ### Separators, comments and blanks -/

theorem splitAt_of_notMem {sep : Char} {cs : List Char} (absent : sep ∉ cs) :
    splitAt sep cs = [cs] := by
  induction cs with
  | nil => rfl
  | cons c cs ih =>
    rw [List.mem_cons, not_or] at absent
    obtain ⟨head, tail⟩ := absent
    simp [splitAt, Ne.symm head, ih tail]

theorem beforeComment_of_notMem {cs : List Char} (absent : ';' ∉ cs) (inQuotes : Bool) :
    beforeComment inQuotes cs = cs := by
  induction cs generalizing inQuotes with
  | nil => rfl
  | cons c cs ih =>
    rw [List.mem_cons, not_or] at absent
    obtain ⟨head, tail⟩ := absent
    simp [beforeComment, Ne.symm head, ih tail]

theorem trim_eq_self {cs : List Char} (ne : cs ≠ []) (head : isBlank (cs.head ne) = false)
    (last : isBlank (cs.getLast ne) = false) : trim cs = cs := by
  have front : cs.dropWhile isBlank = cs :=
    List.dropWhile_eq_self_iff.mpr fun _ => by simpa [List.head_eq_getElem] using head
  have back : cs.rdropWhile isBlank = cs :=
    List.rdropWhile_eq_self_iff.mpr fun _ => by simpa using last
  rwa [trim, front]

/-! ### Lines of a mnemonic and an operand -/

/-- A word of a line: letters and digits, which are no blanks and begin no comment and no new line. -/
structure IsWord (cs : List Char) : Prop where
  ne_nil : cs ≠ []
  alphanum : ∀ c ∈ cs, c.isAlphanum = true

section

variable {word arg : List Char}

theorem IsWord.not_isBlank (hw : IsWord word) {c : Char} (mem : c ∈ word) : isBlank c = false := by
  rw [← Bool.not_eq_true]
  intro blank
  have alphanum := hw.alphanum c mem
  obtain (rfl | rfl) | rfl : (c = ' ' ∨ c = '\t') ∨ c = '\r' := by simpa [isBlank] using blank
  all_goals exact absurd alphanum (by decide)

theorem IsWord.trim_eq (hw : IsWord word) : trim word = word :=
  trim_eq_self hw.ne_nil (hw.not_isBlank (List.head_mem _)) (hw.not_isBlank (List.getLast_mem _))

/-- What is no letter, no digit and no space stands in no line of two words. -/
theorem IsWord.notMem_line (hw : IsWord word) (ha : IsWord arg) {c : Char}
    (other : c.isAlphanum = false) (notSpace : c ≠ ' ') : c ∉ word ++ ' ' :: arg := by
  have absent {cs : List Char} (h : IsWord cs) : c ∉ cs := fun mem =>
    Bool.false_ne_true (other.symm.trans (h.alphanum c mem))
  simp [absent hw, absent ha, notSpace]

theorem IsWord.trim_line (hw : IsWord word) (ha : IsWord arg) :
    trim (word ++ ' ' :: arg) = word ++ ' ' :: arg := by
  refine trim_eq_self (by simp) ?head ?last
  case head =>
    rw [List.head_append_of_ne_nil hw.ne_nil]
    exact hw.not_isBlank (List.head_mem _)
  case last =>
    rw [List.getLast_append_of_ne_nil _ (by simp), List.getLast_cons ha.ne_nil]
    exact ha.not_isBlank (List.getLast_mem _)

theorem IsWord.takeWhile_line (hw : IsWord word) :
    (word ++ ' ' :: arg).takeWhile (!isBlank ·) = word := by
  rw [List.takeWhile_append_of_pos fun c mem => by simp [hw.not_isBlank mem],
    List.takeWhile_cons_of_neg (by decide), List.append_nil]

theorem IsWord.dropWhile_line (hw : IsWord word) :
    (word ++ ' ' :: arg).dropWhile (!isBlank ·) = ' ' :: arg := by
  rw [List.dropWhile_append_of_pos fun c mem => by simp [hw.not_isBlank mem],
    List.dropWhile_cons_of_neg (by decide)]

end

theorem isWord_update : IsWord "UPDATE".toList := ⟨by decide, by simp⟩

/-- A line with the mnemonic UPDATE, one space and an operand is the UPDATE of the operand's byte. -/
theorem parseLine_update {arg : List Char} (ha : IsWord arg) :
    parseLine ("UPDATE".toList ++ ' ' :: arg) = (parseByte arg).map fun n => [.update n] := by
  have uncommented := beforeComment_of_notMem
    (isWord_update.notMem_line ha (c := ';') (by decide) (by decide)) false
  have operand : trim (' ' :: arg) = arg := ha.trim_eq
  rw [parseLine, uncommented, isWord_update.trim_line ha, isWord_update.takeWhile_line,
    isWord_update.dropWhile_line, operand,
    if_neg (List.append_ne_nil_of_right_ne_nil _ (List.cons_ne_nil _ _)), if_pos rfl]

/-- The text UPDATE with an operand that writes a byte assembles to the word of that UPDATE. -/
theorem assemble_update {arg : List Char} (ha : IsWord arg) {n : Nat}
    (byte : parseByte arg = some n) (small : n < 256) :
    assemble ("UPDATE ".toList ++ arg) = some [commandPins (0x100 ||| BitVec.ofNat 10 n)] := by
  have line : "UPDATE ".toList ++ arg = "UPDATE".toList ++ ' ' :: arg := rfl
  have oneLine := splitAt_of_notMem
    (isWord_update.notMem_line ha (c := '\n') (by decide) (by decide))
  have wf : (AsmLine.update n).wf = true := decide_eq_true small
  have word : encode (.update (BitVec.ofNat 8 n)) = 0x100 ||| BitVec.ofNat 10 n := by
    rw [encode, BitVec.setWidth_ofNat_of_le_of_lt (by decide) small]
  have parsed : parseLine ("UPDATE".toList ++ ' ' :: arg) = some [.update n] := by
    rw [parseLine_update ha, byte, Option.map_some]
  rw [line, assemble, oneLine, parseLines, parsed]
  simp [parseLines, expandLines, expandLine_of_wf wf, stepsOfLine, commandOf, word]

/-! ### The two writings of a byte -/

/-- The hexadecimal digits in capitals are letters and digits and are read as their values. -/
theorem hexDigit_capital (d : Fin 16) :
    hexDigit ("0123456789ABCDEF".toList.getD d '0') = some d.val ∧
      ("0123456789ABCDEF".toList.getD d '0').isAlphanum = true := by
  revert d; decide

theorem parseByte_hex {h l : Char} {m n : Nat} (high : hexDigit h = some m)
    (low : hexDigit l = some n) : parseByte ['0', 'x', h, l] = some (16 * m + n) := by
  change digitsValue 16 hexDigit 0 [h, l] = _
  simp [digitsValue, high, low]

theorem isWord_hex {h l : Char} (high : h.isAlphanum = true) (low : l.isAlphanum = true) :
    IsWord ['0', 'x', h, l] :=
  ⟨by simp, by simp [high, low]⟩

/-- The library's value of a digit character is the model's. -/
theorem decDigit_of_isDigit {c : Char} (digit : c.isDigit = true) :
    decDigit c = some (c.toNat - '0'.toNat) :=
  if_pos (by simpa [Char.isDigit, Char.le_def] using digit)

/-- The library's value of decimal digits is the model's. -/
theorem digitsValue_of_isDigit {cs : List Char} (digits : ∀ c ∈ cs, c.isDigit = true) (acc : Nat) :
    digitsValue 10 decDigit acc cs = some (Nat.ofDigitChars 10 cs acc) := by
  induction cs generalizing acc with
  | nil => rfl
  | cons c cs ih =>
    obtain ⟨head, tail⟩ := List.forall_mem_cons.mp digits
    rw [digitsValue, decDigit_of_isDigit head, Nat.ofDigitChars_cons]
    exact ih tail _

theorem mem_of_isDigit {c : Char} (digit : c.isDigit = true) :
    c ∈ ['0', '1', '2', '3', '4', '5', '6', '7', '8', '9'] := by
  obtain ⟨low, high⟩ := Char.isDigit_iff_toNat.mp digit
  rw [← Char.ofNat_toNat c]
  generalize c.toNat = n at low high
  revert n
  decide

/-- Digits alone are no hexadecimal writing, since their second character is no `x`. -/
theorem parseByte_of_isDigit {cs : List Char} (ne : cs ≠ []) (digits : ∀ c ∈ cs, c.isDigit = true) :
    parseByte cs = digitsValue 10 decDigit 0 cs := by
  obtain ⟨c, cs, rfl⟩ := List.exists_cons_of_ne_nil ne
  obtain ⟨head, tail⟩ := List.forall_mem_cons.mp digits
  have first := mem_of_isDigit head
  cases cs with
  | nil => fin_cases first <;> rfl
  | cons c' cs =>
    have second := mem_of_isDigit (tail c' List.mem_cons_self)
    fin_cases first
    · fin_cases second <;> rfl
    all_goals rfl

theorem isDigit_of_mem_toDigits {n : Nat} {c : Char} (mem : c ∈ Nat.toDigits 10 n) :
    c.isDigit = true :=
  Nat.isDigit_of_mem_toDigits (by decide) (by decide) mem

theorem isWord_toDigits (n : Nat) : IsWord (Nat.toDigits 10 n) :=
  ⟨Nat.toDigits_ne_nil, fun c mem => by simp [Char.isAlphanum, isDigit_of_mem_toDigits mem]⟩

/-- The decimal digits of a number are read back as the number. -/
theorem parseByte_toDigits (n : Nat) : parseByte (Nat.toDigits 10 n) = some n := by
  have digits : ∀ c ∈ Nat.toDigits 10 n, c.isDigit = true := fun _ => isDigit_of_mem_toDigits
  rw [parseByte_of_isDigit Nat.toDigits_ne_nil digits, digitsValue_of_isDigit digits,
    Nat.ofDigitChars_ten_toDigits]

/-- Settles O52: the lines without an operand by evaluation; UPDATE with each writing of a byte by
reading its digits back. -/
theorem textAssemblesToItsWord : Obligations.TextAssemblesToItsWord := by
  refine ⟨?init, ?digest, ?reset, ?idle, ?hwReset, ?comment, ?small,
    fun b => ?hexadecimal, fun b => ?decimal⟩
  case init | digest | reset | idle | hwReset | comment | small => decide
  case hexadecimal =>
    obtain ⟨high, highAlphanum⟩ := hexDigit_capital ⟨b / 16, by omega⟩
    obtain ⟨low, lowAlphanum⟩ := hexDigit_capital ⟨b % 16, by omega⟩
    have byte := parseByte_hex high low
    rw [Nat.div_add_mod] at byte
    exact assemble_update (isWord_hex highAlphanum lowAlphanum) byte b.isLt
  case decimal => exact assemble_update (isWord_toDigits b) (parseByte_toDigits b) b.isLt

end Sys2Proof.Machine
end

section
/-! PROOFS. The step function, the four commands and the rules of each kind (spec 40_interface_ops.md
R60 to R67, R71). -/

namespace Sys2Proof.Machine

/-! ### The meaning of each command -/

@[simp] theorem exec_init (s : State) : exec .init s = .next (loadInitial s) := rfl

@[simp] theorem exec_update (b : Byte) (s : State) :
    exec (.update b) s = .next (noResponse (writeSTATE (upd s.params s.STATE b) s)) := rfl

@[simp] theorem exec_digest (s : State) :
    exec .digest s = .next (respond (dig s.params s.STATE) s) := rfl

@[simp] theorem exec_reset (s : State) : exec .reset s = .next (loadInitial s) := rfl

/-- Loading the initial value twice is loading it once: it does not read the register (R64). -/
@[simp] theorem loadInitial_loadInitial (s : State) :
    loadInitial (loadInitial s) = loadInitial s := rfl

/-- A fresh unit holds its initial value already (R64). -/
@[simp] theorem loadInitial_fresh (P : Params) : loadInitial (State.fresh P) = State.fresh P := rfl

/-- DIGEST on a fresh unit answers the digest of its initial value (R66, R71). -/
theorem exec_digest_fresh (P : Params) :
    ∃ t, exec .digest (State.fresh P) = .next t ∧ t.rsp = some (dig P (initValue P)) :=
  ⟨_, exec_digest _, rfl⟩

/-! ### The step function and the commands -/

/-- Settles O3: the two events without a word by definition, each command by its operation code. -/
theorem stepFunctionOfTheInterface : Obligations.StepFunctionOfTheInterface :=
  fun s b => ⟨rfl, rfl, performEvent_op00 b s, performEvent_op01 b s, performEvent_op10 b s,
    performEvent_op11 b s⟩

/-- Settles O15: `Instr.init` performs `loadInitial`, which is idempotent and fixes every fresh unit. -/
theorem initializeLoadsInitialValue : Obligations.InitializeLoadsInitialValue := by
  refine ⟨decode_op00, exec_init, fun P => ?fresh, fun s t u once twice => ?idempotent,
    fun c s => ?toFF⟩
  case fresh => rw [exec_init, loadInitial_fresh]
  case idempotent =>
    rw [exec_init] at once twice
    cases once
    cases twice
    exact loadInitial_loadInitial s
  case toFF => exact ⟨_, exec_init _, (loadInitial_STATE _).trans (initValue_of_crc8 rfl)⟩

/-- Settles O16: the decoder's lemma and the meaning of UPDATE; the example is eight shift steps of
the register `0x00 ^^^ 0x31`. -/
theorem updateConsumesOneByte : Obligations.UpdateConsumesOneByte := by
  refine ⟨decode_op01, exec_update, fun c s => ⟨_, exec_update _ _, ?register⟩⟩
  calc upd { c with alg := .crc8, poly := 0x07, refin := false } 0x00 0x31
    _ = crcUpdate { c with poly := 0x07, refin := false } 0x00 0x31 := upd_of_crc8 rfl _ _
    _ = crcShift8 0x07 (0x00 ^^^ 0x31) := rfl
    _ = 0x97 := by decide

/-- Settles O17: the decoder's lemma and the meaning of DIGEST, which writes the response alone; the
example is the reversal of `0x0B`. -/
theorem digestAnswersAndWritesNothing : Obligations.DigestAnswersAndWritesNothing := by
  refine ⟨decode_op10, exec_digest, exec_digest_fresh,
    fun c s => ⟨_, exec_digest _, congrArg some ?response, rfl⟩⟩
  calc dig { c with alg := .crc8, refout := true, xorout := 0x00 } 0x0B
    _ = crcDigest { c with refout := true, xorout := 0x00 } 0x0B := dig_of_crc8 rfl _
    _ = reflect8 0x0B ^^^ 0x00 := rfl
    _ = 0xD0 := by decide

/-- Settles O18: `Instr.reset` and `Instr.init` both perform `loadInitial`. -/
theorem resetCommandEqualsInitialize : Obligations.ResetCommandEqualsInitialize :=
  ⟨decode_op11, exec_reset, fun s => (exec_reset s).trans (exec_init s).symm,
    fun _ _ => ⟨_, exec_reset _, (loadInitial_STATE _).trans (initValue_of_sum rfl)⟩⟩

/-! ### The rules of each kind -/

/-- Settles O19: the lemmas of `upd` and `dig`, one for each kind. -/
theorem rulesAreSelectedByKind : Obligations.RulesAreSelectedByKind :=
  fun _ s b => ⟨upd_of_crc8 rfl s b, upd_of_sum rfl s b, upd_of_xor rfl s b,
    dig_of_crc8 rfl s, dig_of_sum rfl s, dig_of_xor rfl s⟩

/-- Settles O42: the digest of the initial value, by the lemmas of `dig` and `initValue` for each
kind. -/
theorem digestOfNoInput : Obligations.DigestOfNoInput := by
  intro c
  refine ⟨?crc8, ?sum, ?xor⟩
  case crc8 =>
    have answer := exec_digest_fresh { c with alg := .crc8 }
    rwa [initValue_of_crc8 rfl, dig_of_crc8 rfl] at answer
  case sum =>
    have answer := exec_digest_fresh { c with alg := .sum }
    rwa [initValue_of_sum rfl, dig_of_sum rfl] at answer
  case xor =>
    have answer := exec_digest_fresh { c with alg := .xor }
    rwa [initValue_of_xor rfl, dig_of_xor rfl] at answer

end Sys2Proof.Machine
end

section
/-! PROOFS. Runs of UPDATEs alone, and runs that leave the register alone (spec 40_interface_ops.md R68,
R70). -/

namespace Sys2Proof.Machine

/-- UPDATEALL (R68): the register folds the bytes, and no UPDATE responds; without a byte the response
port stands as it was. -/
theorem runEvents_updates (S : List Byte) (s : State) :
    runEvents (updates S) s =
      .next ({ s with
        STATE := foldUpd s.params s.STATE S, rsp := (if S = [] then s.rsp else none) }, []) := by
  induction S generalizing s with
  | nil => rfl
  | cons b S ih =>
    have rest := ih (noResponse (writeSTATE (upd s.params s.STATE b) s))
    rw [noResponse_rsp, ite_self] at rest
    exact runEvents_cons (performEvent_op01 b s) rest

/-- Settles O39: the run of the UPDATEs and the equations of `foldUpd`. -/
theorem updateAllIsTheFoldOfUpdates : Obligations.UpdateAllIsTheFoldOfUpdates :=
  ⟨runEvents_updates,
    fun P s b S S' => ⟨foldUpd_nil P s, foldUpd_cons P s b S, foldUpd_append P s S S'⟩, fun _ => rfl⟩

/-- A passive event keeps the register and the parameters, and it responds, with the digest of the
register, exactly when it is not the idle step. -/
theorem performEvent_of_isPassive {e : Event} (passive : Event.isPassive e = true) (s : State) :
    ∃ t, performEvent e s = .next t ∧ t.STATE = s.STATE ∧ t.params = s.params ∧
      t.rsp.toList = List.replicate ([e].countP (· != .idle)) (dig s.params s.STATE) := by
  cases e with
  | hwReset => cases passive
  | idle => exact ⟨_, rfl, rfl, rfl, rfl⟩
  | cmd op d =>
    obtain rfl : op = 0b10 := by simpa [Event.isPassive] using passive
    exact ⟨_, performEvent_op10 d s, rfl, rfl, rfl⟩

/-- A run of passive events keeps the register and answers the same digest in every step that is not
idle. -/
theorem runEvents_of_all_isPassive {es : List Event} (passive : es.all Event.isPassive = true)
    (s : State) :
    ∃ t, runEvents es s =
        .next (t, List.replicate (es.countP (· != .idle)) (dig s.params s.STATE)) ∧
      t.STATE = s.STATE := by
  induction es generalizing s with
  | nil => exact ⟨s, rfl, rfl⟩
  | cons e es ih =>
    obtain ⟨head, tail⟩ : Event.isPassive e = true ∧ es.all Event.isPassive = true := by
      simpa only [List.all_cons, Bool.and_eq_true] using passive
    obtain ⟨t, event, register, params, response⟩ := performEvent_of_isPassive head s
    obtain ⟨u, run, last⟩ := ih tail t
    have count : (e :: es).countP (· != .idle) = [e].countP (· != .idle) + es.countP (· != .idle) :=
      List.countP_append (l₁ := [e])
    rw [register, params] at run
    rw [count, List.replicate_add, ← response]
    exact ⟨u, runEvents_cons event run, last.trans register⟩

/-- Settles O41: the two DIGESTs are themselves passive, so the whole run is one of passive events. -/
theorem digestIsIdempotent : Obligations.DigestIsIdempotent := by
  intro s mid passive
  have allPassive : ([digestCmd] ++ mid ++ [digestCmd]).all Event.isPassive = true := by
    rw [List.all_append, List.all_append, passive]
    rfl
  have count : ([digestCmd] ++ mid ++ [digestCmd]).countP (· != .idle) =
      mid.countP (· != .idle) + 2 := by
    simp [digestCmd, List.countP_append]
  obtain ⟨t, run, register⟩ := runEvents_of_all_isPassive allPassive s
  exact ⟨t, _, run, by rw [count], register⟩

end Sys2Proof.Machine
end

section
/-! PROOFS. Bit reversal and the shift step (spec 41_crc8_engine.md R80, R82). -/

namespace Sys2Proof.Machine

/-- Bit `i` of the reversal is bit `7 - i` (R80). -/
theorem getLsbD_reflect8 (v : Byte) {i : Nat} (lt : i < 8) :
    (reflect8 v).getLsbD i = v.getLsbD (7 - i) := by
  rw [reflect8, BitVec.getLsbD_ofBoolListBE]
  interval_cases i <;> rfl

/-- Settles O20: every bit by `getLsbD_reflect8`, the examples by evaluation. -/
theorem reflectReversesEveryBit : Obligations.ReflectReversesEveryBit :=
  ⟨fun v i => getLsbD_reflect8 v i.isLt, by decide, by decide, by decide, by decide⟩

/-- The shift as a number: the double modulo 256 (R82). -/
theorem shl1_eq_ofNat (r : Byte) : shl1 r = BitVec.ofNat 8 (2 * r.toNat % 256) := by
  apply BitVec.eq_of_toNat_eq
  rw [shl1, BitVec.toNat_shiftLeft, BitVec.toNat_ofNat, Nat.mod_mod, Nat.shiftLeft_eq, mul_comm]

/-- Settles O22: the two branches of `crcShift` over `shl1_eq_ofNat`; `crcShift8` is the eightfold
iterate by definition. -/
theorem shiftStepTestsBitSevenFirst : Obligations.ShiftStepTestsBitSevenFirst := by
  refine ⟨fun poly r => ⟨shl1_eq_ofNat r, ?step, rfl⟩, by decide, by decide, by decide⟩
  case step => rw [crcShift, shl1_eq_ofNat]

end Sys2Proof.Machine
end

section
/-! PROOFS. UPDATE, DIGEST and the digest of a run on a CRC8 instance (spec 41_crc8_engine.md R83,
R85, R86). -/

namespace Sys2Proof.Machine

/-- Settles O23: the meaning of UPDATE, with the update rule of kind CRC8. -/
theorem updateOfACrcInstance : Obligations.UpdateOfACrcInstance := by
  intro c s b
  rw [exec_update, upd_of_crc8 rfl]
  rfl

/-- Settles O25: the meaning of DIGEST, with the digest rule of kind CRC8; the example is
`reflect8 0x01 ^^^ 0x55`. -/
theorem digestReflectsThenXors : Obligations.DigestReflectsThenXors := by
  refine ⟨fun c s => ?formula, fun c => ?quoted⟩
  case formula =>
    rw [exec_digest, dig_of_crc8 rfl]
    rfl
  case quoted =>
    calc crcDigest { c with refout := true, xorout := 0x55 } 0x01
      _ = reflect8 0x01 ^^^ 0x55 := rfl
      _ = 0xD5 := by decide

/-- On a CRC8 instance the fold of the accepted bytes is the fold of `crcUpdate` from `INIT` as it
stands (R86). -/
theorem foldUpd_paramsOfCrc (c : CrcParams) (S : List Byte) :
    foldUpd (paramsOfCrc c) (initValue (paramsOfCrc c)) S = S.foldl (crcUpdate c) c.init :=
  foldUpd_eq_foldl _ _ S

/-- The checksum of a CRC8 instance is the CRC-8 of the sequence (R69, R86). -/
theorem checksum_paramsOfCrc (c : CrcParams) (S : List Byte) :
    checksum (paramsOfCrc c) S = crc8 c S := by
  rw [checksum, foldUpd_paramsOfCrc, dig_of_crc8 rfl]
  rfl

/-- Settles O27: the run of the UPDATEs with a DIGEST at its end accepts `S` and answers its
checksum. -/
theorem runAnswersTheCrcOfTheSequence : Obligations.RunAnswersTheCrcOfTheSequence := by
  intro c S
  refine ⟨?run, rfl, rfl, checksum_paramsOfCrc c S⟩
  case run =>
    have run := runEvents_fresh_digestCmd (paramsOfCrc c) (updates S)
    rw [answersOf_updates, consumedBy_updates, List.nil_append, List.nil_append,
      checksum_paramsOfCrc, foldUpd_paramsOfCrc] at run
    exact ⟨_, run, rfl⟩

end Sys2Proof.Machine
end

section
/-! PROOFS. Reflection and the register of a CRC8 instance over a run (spec 41_crc8_engine.md R87). -/

namespace Sys2Proof.Machine

/-- The event with `g` applied to its data byte. -/
def mapData (g : Byte → Byte) : Event → Event
  | .hwReset => .hwReset
  | .idle => .idle
  | .cmd op b => .cmd op (g b)

theorem mapData_id (e : Event) : mapData id e = e := by
  cases e <;> rfl

/-- Under `P'` the byte `g b` moves the register as `b` does under `P`, and both begin at the same
value. -/
structure MovesAlike (g : Byte → Byte) (P P' : Params) : Prop where
  initValue_eq : initValue P' = initValue P
  upd_eq : ∀ v b, upd P' v (g b) = upd P v b

/-- Two units bound to `P` and to `P'` that hold the same register. -/
structure SameRegister (P P' : Params) (s s' : State) : Prop where
  params : s.params = P
  params' : s'.params = P'
  register : s'.STATE = s.STATE

section
variable {g : Byte → Byte} {P P' : Params} {s s' : State}

theorem SameRegister.after_loadInitial (same : SameRegister P P' s s') (alike : MovesAlike g P P') :
    SameRegister P P' (loadInitial s) (loadInitial s') where
  params := same.params
  params' := same.params'
  register := by
    rw [loadInitial_STATE, loadInitial_STATE, same.params, same.params', alike.initValue_eq]

theorem SameRegister.after_update (same : SameRegister P P' s s') (alike : MovesAlike g P P')
    (b : Byte) : SameRegister P P' (noResponse (writeSTATE (upd s.params s.STATE b) s))
      (noResponse (writeSTATE (upd s'.params s'.STATE (g b)) s')) where
  params := same.params
  params' := same.params'
  register := by
    rw [noResponse_STATE, noResponse_STATE, writeSTATE_STATE, writeSTATE_STATE, same.params,
      same.params', same.register, alike.upd_eq]

/-- One event, the second unit's with its data byte under `g`, keeps the registers the same; the
responses are the same if the two digests are. -/
theorem SameRegister.after_performEvent (same : SameRegister P P' s s') (alike : MovesAlike g P P')
    (e : Event) :
    ∃ t t', performEvent e s = .next t ∧ performEvent (mapData g e) s' = .next t' ∧
      SameRegister P P' t t' ∧ (dig P' = dig P → t'.rsp = t.rsp) := by
  have reset := same.after_loadInitial alike
  cases e with
  | hwReset => exact ⟨_, _, rfl, rfl, reset, fun _ => rfl⟩
  | idle => exact ⟨_, _, rfl, rfl, ⟨same.params, same.params', same.register⟩, fun _ => rfl⟩
  | cmd op d =>
    rcases opCode_cases op with rfl | rfl | rfl | rfl
    · exact ⟨_, _, performEvent_op00 d s, performEvent_op00 (g d) s', reset, fun _ => rfl⟩
    · exact ⟨_, _, performEvent_op01 d s, performEvent_op01 (g d) s', same.after_update alike d,
        fun _ => rfl⟩
    · refine ⟨_, _, performEvent_op10 d s, performEvent_op10 (g d) s',
        ⟨same.params, same.params', same.register⟩, fun digests => ?_⟩
      rw [respond_rsp, respond_rsp, same.params, same.params', same.register, digests]
    · exact ⟨_, _, performEvent_op11 d s, performEvent_op11 (g d) s', reset, fun _ => rfl⟩

/-- The two units side by side over a run: by induction on the events, one event at the front. -/
theorem SameRegister.after_runEvents (same : SameRegister P P' s s') (alike : MovesAlike g P P')
    (es : List Event) :
    ∃ t t' rs rs', runEvents es s = .next (t, rs) ∧
      runEvents (es.map (mapData g)) s' = .next (t', rs') ∧
      t'.STATE = t.STATE ∧ (dig P' = dig P → rs' = rs) := by
  induction es generalizing s s' with
  | nil => exact ⟨s, s', [], [], rfl, rfl, same.register, fun _ => rfl⟩
  | cons e es ih =>
    obtain ⟨t, t', event, event', sameAfter, response⟩ := same.after_performEvent alike e
    obtain ⟨u, u', rs, rs', run, run', register, responses⟩ := ih sameAfter
    refine ⟨u, u', _, _, runEvents_cons event run, runEvents_cons event' run', register,
      fun digests => ?_⟩
    rw [response digests, responses digests]

end

/-- REFOUT and XOROUT have no part in the initial value or in UPDATE (R83). -/
theorem movesAlike_of_output (c : CrcParams) (o : Bool) (x : Byte) :
    MovesAlike id (paramsOfCrc c) (paramsOfCrc { c with refout := o, xorout := x }) :=
  ⟨rfl, fun _ _ => rfl⟩

/-- REFIN acts on the byte alone: without it the reversed byte moves the register alike (R83). -/
theorem movesAlike_of_refin (c : CrcParams) :
    MovesAlike reflect8 (paramsOfCrc { c with refin := true })
      (paramsOfCrc { c with refin := false }) :=
  ⟨rfl, fun _ _ => rfl⟩

/-- The register after a run of a CRC8 instance: `HoldsBytes` over the run, with the fold written by
`crcUpdate`. -/
theorem runEvents_register_of_crc (c : CrcParams) (es : List Event) (acc : List Byte) {s : State}
    (params : s.params = paramsOfCrc c) (register : s.STATE = acc.foldl (crcUpdate c) c.init) :
    ∃ t rs, runEvents es s = .next (t, rs) ∧
      t.STATE = (consumedBy acc es).foldl (crcUpdate c) c.init := by
  rw [← foldUpd_paramsOfCrc] at register
  obtain ⟨t, run, holds, -⟩ := HoldsBytes.after_runEvents ⟨params, register⟩ es
  exact ⟨t, _, run, holds.register.trans (foldUpd_paramsOfCrc c _)⟩

/-- Settles O28: the register by `runEvents_register_of_crc`, and each comparison by two units that
hold the same register side by side. -/
theorem reflectionNeverReachesTheRegister : Obligations.ReflectionNeverReachesTheRegister := by
  refine ⟨fun c es acc s => runEvents_register_of_crc c es acc rfl rfl,
    fun c es => runEvents_register_of_crc c es [] rfl rfl, fun c es s o x => ?comparisons⟩
  case comparisons =>
    obtain ⟨t, t', rs, rs', run, run', output, -⟩ :=
      SameRegister.after_runEvents (s := { s with params := paramsOfCrc c })
        (s' := { s with params := paramsOfCrc { c with refout := o, xorout := x } })
        ⟨rfl, rfl, rfl⟩ (movesAlike_of_output c o x) es
    obtain ⟨u, u', qs, qs', reflected, reversed, input, responses⟩ :=
      SameRegister.after_runEvents (s := { s with params := paramsOfCrc { c with refin := true } })
        (s' := { s with params := paramsOfCrc { c with refin := false } })
        ⟨rfl, rfl, rfl⟩ (movesAlike_of_refin c) es
    rw [List.map_congr_left fun e _ => mapData_id e, List.map_id'] at run'
    exact ⟨t, t', u, u', rs, rs', qs, qs', run, run', output, reflected, reversed, input,
      responses rfl⟩

end Sys2Proof.Machine
end

section
/-! PROOFS. The variant table and selection by name (spec 42_variant_table.md R100 to R108). -/

namespace Sys2Proof.Machine

section Rows

variable {o : OpenRows} {r : Cfg}

/-- The names of the rows, which the open numbers leave alone (R100). -/
theorem map_name_variantTable (o : OpenRows) :
    (variantTable o).map Cfg.name =
      ["CRC-8", "CRC-8/ATM", "CRC-8/CDMA2000", "CRC-8/DARC", "CRC-8/ETSI", "CRC-8/ROHC",
       "CRC-8/SMBUS", "CRC-8/WCDMA"] := rfl

theorem nodup_map_name_variantTable (o : OpenRows) : ((variantTable o).map Cfg.name).Nodup := by
  rw [map_name_variantTable]
  decide

theorem mem_variantTable :
    r ∈ variantTable o ↔
      r = rowCrc8 ∨ r = openRow "CRC-8/ATM" o.atm ∨ r = rowCdma2000 ∨ r = rowDarc ∨
      r = openRow "CRC-8/ETSI" o.etsi ∨ r = rowRohc ∨ r = openRow "CRC-8/SMBUS" o.smbus ∨
      r = rowWcdma := by
  simp [variantTable]

/-- What lookup finds is a row of the table under the name asked for (R108). -/
theorem mem_and_name_of_lookupIn {name : String} (found : lookupIn o name = some r) :
    r ∈ variantTable o ∧ r.name = name :=
  ⟨List.mem_of_find?_eq_some found, by simpa using List.find?_some found⟩

/-- Lookup fails exactly for the strings that name no row (R108). -/
theorem lookupIn_eq_none_iff {name : String} :
    lookupIn o name = none ↔ name ∉ (variantTable o).map Cfg.name := by
  simp [lookupIn]

/-- Lookup by a row's name gives the row: no other row bears the name (R108). -/
theorem lookupIn_name_of_mem (mem : r ∈ variantTable o) : lookupIn o r.name = some r := by
  cases found : lookupIn o r.name with
  | none => exact absurd (List.mem_map_of_mem mem) (lookupIn_eq_none_iff.1 found)
  | some r' =>
    obtain ⟨mem', sameName⟩ := mem_and_name_of_lookupIn found
    rw [List.inj_on_of_nodup_map (nodup_map_name_variantTable o) mem' mem sameName]

theorem instantiateByName_of_lookupIn {name : String} (found : lookupIn o name = some r) :
    instantiateByName o name = .next (State.fresh (paramsOfCrc r.toCrcParams)) := by
  simp [instantiateByName, found]

theorem instantiateByName_of_lookupIn_none {name : String} (failed : lookupIn o name = none) :
    instantiateByName o name = .refused (.unknownVariant name) := by
  simp [instantiateByName, failed]

theorem check_openRow (name : String) (c : CrcParams) :
    (openRow name c).check = crc8 (openRow name c).toCrcParams msg9 := rfl

/-- The check value of every row is the CRC-8 of the nine bytes under the row's numbers (R107): by
computation for the rows with numbers, by definition for the open ones. -/
theorem check_eq_crc8_of_mem (mem : r ∈ variantTable o) : r.check = crc8 r.toCrcParams msg9 := by
  rcases mem_variantTable.1 mem with rfl | rfl | rfl | rfl | rfl | rfl | rfl | rfl
  · decide +kernel
  · exact check_openRow _ _
  · decide +kernel
  · decide +kernel
  · exact check_openRow _ _
  · decide +kernel
  · exact check_openRow _ _
  · decide +kernel

end Rows

/-- Settles O56: selection binds the row's numbers, the run answers their CRC-8 of the nine bytes, and
`CHECK` is none of the numbers. -/
theorem everyRowAnswersItsCheckValue : Obligations.EveryRowAnswersItsCheckValue := by
  intro o r mem
  obtain ⟨⟨t, run, -⟩, crc, -⟩ := runAnswersTheCrcOfTheSequence r.toCrcParams msg9
  rw [← crc, ← check_eq_crc8_of_mem mem] at run
  exact ⟨_, t, instantiateByName_of_lookupIn (lookupIn_name_of_mem mem), run,
    check_eq_crc8_of_mem mem, fun _ => rfl⟩

/-- Settles O57: the names are distinct, so each finds its own row, and no other string finds one. -/
theorem lookupIsByExactName : Obligations.LookupIsByExactName := by
  refine fun o => ⟨map_name_variantTable o, fun r mem => ?row, fun name unknown => ?failure⟩
  case row =>
    have found := lookupIn_name_of_mem mem
    exact ⟨found, instantiateByName_of_lookupIn found⟩
  case failure =>
    have failed := lookupIn_eq_none_iff.2 unknown
    exact ⟨failed, instantiateByName_of_lookupIn_none failed⟩

/-- The five rows with numbers stand in the table (R101 to R105). -/
theorem numberedRows_mem_variantTable (o : OpenRows) :
    rowCrc8 ∈ variantTable o ∧ rowCdma2000 ∈ variantTable o ∧ rowDarc ∈ variantTable o ∧
    rowRohc ∈ variantTable o ∧ rowWcdma ∈ variantTable o := by
  simp [mem_variantTable]

/-- The three open rows stand in the table (R106). -/
theorem openRows_mem_variantTable (o : OpenRows) :
    openRow "CRC-8/ATM" o.atm ∈ variantTable o ∧ openRow "CRC-8/ETSI" o.etsi ∈ variantTable o ∧
    openRow "CRC-8/SMBUS" o.smbus ∈ variantTable o := by
  simp [mem_variantTable]

/-- Settles O55: each of the five is a row of the table, found by its name and with its check value. -/
theorem rowsWithNumbersPassTheirCheck : Obligations.RowsWithNumbersPassTheirCheck := by
  intro o
  obtain ⟨plain, cdma2000, darc, rohc, wcdma⟩ := numberedRows_mem_variantTable o
  exact ⟨lookupIn_name_of_mem plain, lookupIn_name_of_mem cdma2000, lookupIn_name_of_mem darc,
    lookupIn_name_of_mem rohc, lookupIn_name_of_mem wcdma,
    (check_eq_crc8_of_mem plain).symm, (check_eq_crc8_of_mem cdma2000).symm,
    (check_eq_crc8_of_mem darc).symm, (check_eq_crc8_of_mem rohc).symm,
    (check_eq_crc8_of_mem wcdma).symm⟩

/-- Settles O58: each of the three is a row of the table whatever its numbers are. -/
theorem openRowsHoldAnyNumbers : Obligations.OpenRowsHoldAnyNumbers := by
  intro atm etsi smbus
  obtain ⟨atmRow, etsiRow, smbusRow⟩ := openRows_mem_variantTable ⟨atm, etsi, smbus⟩
  exact ⟨lookupIn_name_of_mem atmRow, lookupIn_name_of_mem etsiRow, lookupIn_name_of_mem smbusRow⟩

end Sys2Proof.Machine
end

section
/-! PROOFS. The SUM and XOR accumulators (spec 43_accumulators.md R120, R121, R124, R127). -/

namespace Sys2Proof.Machine

/-! ### The order of the bytes -/

/-- The UPDATEs of a sequence and a DIGEST, from any state: the last state and the one response are
functions of the fold alone (R66, R68). -/
theorem runEvents_updates_digestCmd (S : List Byte) (s : State) :
    runEvents (updates S ++ [digestCmd]) s =
      .next (respond (dig s.params (foldUpd s.params s.STATE S))
          (writeSTATE (foldUpd s.params s.STATE S) s),
        [dig s.params (foldUpd s.params s.STATE S)]) :=
  runEvents_append (runEvents_updates S s) (runEvents_cons (performEvent_op10 0 _) (runEvents_nil _))

/-- Where two updates may change places, the fold ignores the order of the bytes. -/
theorem foldUpd_perm {P : Params} (commutes : RightCommutative (upd P)) {S S' : List Byte}
    (perm : S.Perm S') (v : Byte) : foldUpd P v S = foldUpd P v S' := by
  rw [foldUpd_eq_foldl, foldUpd_eq_foldl, perm.foldl_eq v]

theorem rightCommutative_upd_of_xor {P : Params} (h : P.alg = .xor) : RightCommutative (upd P) where
  right_comm v b b' := by
    simp only [upd_of_xor h, BitVec.xor_assoc, BitVec.xor_comm b b']

/-- Settles O36: both runs end as the fold says, and the fold of XOR ignores the order. -/
theorem xorChecksumIgnoresByteOrder : Obligations.XorChecksumIgnoresByteOrder := by
  intro c s S S' perm
  refine ⟨_, _, _, _, runEvents_updates_digestCmd S _, runEvents_updates_digestCmd S' _, ?_⟩
  rw [foldUpd_perm (rightCommutative_upd_of_xor rfl) perm]
  exact ⟨rfl, rfl⟩

/-! ### What the two accumulators share -/

section
variable {a : Alg} (accumulator : a = .sum ∨ a = .xor)
include accumulator

/-- An accumulator starts at 0 (R120). -/
theorem initValue_of_accumulator (c : CrcParams) : initValue { c with alg := a } = 0x00 := by
  rcases accumulator with rfl | rfl
  · exact initValue_of_sum rfl
  · exact initValue_of_xor rfl

/-- An accumulator answers its register as it stands (R120). -/
theorem dig_of_accumulator (c : CrcParams) (v : Byte) : dig { c with alg := a } v = v := by
  rcases accumulator with rfl | rfl
  · exact dig_of_sum rfl v
  · exact dig_of_xor rfl v

/-- INITIALIZE of an accumulator sets the register to 0 and does not respond (R64, R120). -/
theorem exec_init_of_accumulator (c : CrcParams) (s : State) :
    exec .init { s with params := { c with alg := a } } =
      .next { s with params := { c with alg := a }, STATE := 0x00, rsp := none } := by
  rw [exec_init, loadInitial, initValue_of_accumulator accumulator]
  rfl

/-- DIGEST of an accumulator responds with the register and writes nothing else (R66, R120). -/
theorem exec_digest_of_accumulator (c : CrcParams) (s : State) :
    exec .digest { s with params := { c with alg := a } } =
      .next { s with params := { c with alg := a }, rsp := some s.STATE } := by
  rw [exec_digest, dig_of_accumulator accumulator]
  rfl

/-- The CRC numbers have no part in the initial value or the update of an accumulator (R120). -/
theorem movesAlike_of_accumulator (c c' : CrcParams) :
    MovesAlike id { c with alg := a } { c' with alg := a } where
  initValue_eq := by
    rw [initValue_of_accumulator accumulator, initValue_of_accumulator accumulator]
  upd_eq v b := by
    rcases accumulator with rfl | rfl
    · rw [upd_of_sum rfl, upd_of_sum rfl, id]
    · rw [upd_of_xor rfl, upd_of_xor rfl, id]

end

/-! ### The configuration -/

/-- Two units with the same register and the same digest rule, over a run of the same events: the
responses are the same, and so are the registers and the response ports at its end. -/
theorem SameRegister.after_runEvents_of_dig_eq {P P' : Params} {s s' : State}
    (same : SameRegister P P' s s') (rsp : s'.rsp = s.rsp) (alike : MovesAlike id P P')
    (digests : dig P' = dig P) (es : List Event) :
    ∃ t t' rs, runEvents es s = .next (t, rs) ∧ runEvents es s' = .next (t', rs) ∧
      t'.STATE = t.STATE ∧ t'.rsp = t.rsp := by
  induction es generalizing s s' with
  | nil => exact ⟨s, s', [], rfl, rfl, same.register, rsp⟩
  | cons e es ih =>
    obtain ⟨t, t', event, event', sameAfter, response⟩ := same.after_performEvent alike e
    obtain ⟨u, u', rs, run, run', last⟩ := ih sameAfter (response digests)
    have whole' := runEvents_cons event' run'
    rw [mapData_id, response digests] at whole'
    exact ⟨u, u', _, runEvents_cons event run, whole', last⟩

/-- Settles O38: two fresh units of the kind hold the same register and keep it side by side. -/
theorem accumulatorsIgnoreTheConfiguration : Obligations.AccumulatorsIgnoreTheConfiguration := by
  intro a accumulator c c' es
  have alike := movesAlike_of_accumulator accumulator c c'
  have digests : dig { c' with alg := a } = dig { c with alg := a } := by
    funext v
    rw [dig_of_accumulator accumulator, dig_of_accumulator accumulator]
  have same : SameRegister _ _ (State.fresh { c with alg := a }) (State.fresh { c' with alg := a }) :=
    ⟨rfl, rfl, alike.initValue_eq⟩
  obtain ⟨t, t', rs, run, run', register, rsp⟩ :=
    same.after_runEvents_of_dig_eq rfl alike digests es
  exact ⟨t, t', rs, run, run', register, rsp, initValue_of_accumulator accumulator c,
    dig_of_accumulator accumulator c⟩

/-! ### UPDATE of each accumulator -/

/-- UPDATE of a SUM instance as a number: the sum modulo 256 (R121). -/
theorem upd_of_sum_eq_ofNat {P : Params} (h : P.alg = .sum) (v b : Byte) :
    upd P v b = BitVec.ofNat 8 ((v.toNat + b.toNat) % 256) := by
  apply BitVec.eq_of_toNat_eq
  rw [upd_of_sum h, BitVec.toNat_add, BitVec.toNat_ofNat, Nat.mod_mod]

/-- UPDATE of an XOR instance, bit by bit (R124). -/
theorem getLsbD_upd_of_xor {P : Params} (h : P.alg = .xor) (v b : Byte) (i : Nat) :
    (upd P v b).getLsbD i = (v.getLsbD i != b.getLsbD i) := by
  rw [upd_of_xor h, BitVec.getLsbD_xor]

/-- Settles O32: UPDATE is the sum as a number; DIGEST and INITIALIZE are those of an accumulator. -/
theorem sumInstanceAddsModulo256 : Obligations.SumInstanceAddsModulo256 := by
  refine ⟨fun c s b => ⟨?update, exec_digest_of_accumulator (.inl rfl) c s,
    exec_init_of_accumulator (.inl rfl) c s⟩, by decide⟩
  case update =>
    rw [exec_update, upd_of_sum_eq_ofNat rfl]
    rfl

/-- Settles O33: the value UPDATE writes has the bits of the XOR; DIGEST and INITIALIZE are those of an
accumulator. -/
theorem xorInstanceXorsEveryBit : Obligations.XorInstanceXorsEveryBit :=
  ⟨fun c s b => ⟨⟨upd { c with alg := .xor } s.STATE b, exec_update b _,
      fun i => getLsbD_upd_of_xor rfl s.STATE b i⟩,
    exec_digest_of_accumulator (.inr rfl) c s, exec_init_of_accumulator (.inr rfl) c s⟩, by decide⟩

end Sys2Proof.Machine
end

section
/-! PROOFS. No exception, and several instances side by side (spec 60_exceptions.md R140, R152). -/

namespace Sys2Proof.Machine

/-- Settles O2: `Fault` has no constructor, and the answer of `exec_uniform` writes only the register and
the response. -/
theorem everyCommandCompletes : Obligations.EveryCommandCompletes := by
  refine ⟨nofun, fun i s => ?_⟩
  obtain ⟨v, r, answer⟩ := exec_uniform i s.params s.STATE
  exact ⟨_, answer s rfl rfl, rfl, rfl⟩

/-! ### What belongs to one instance -/

section
variable {n : Nat} {α : Type} {j k : Fin n}

/-- The items of a list that belong to instance `k`, in order: its events in a schedule, its responses in
the answer of a run. -/
def ownItems (k : Fin n) (xs : List (Fin n × α)) : List α :=
  xs.filterMap fun x => if x.1 = k then some x.2 else none

@[simp] theorem ownItems_cons_self (a : α) (xs : List (Fin n × α)) :
    ownItems k ((k, a) :: xs) = a :: ownItems k xs :=
  List.filterMap_cons_some (if_pos rfl)

theorem ownItems_cons_of_ne (other : j ≠ k) (a : α) (xs : List (Fin n × α)) :
    ownItems k ((j, a) :: xs) = ownItems k xs :=
  List.filterMap_cons_none (if_neg other)

/-- Items of `k` in front of a list stand in front of what belongs to `k`. -/
theorem ownItems_map_append_self (as : List α) (xs : List (Fin n × α)) :
    ownItems k (as.map (fun a => (k, a)) ++ xs) = as ++ ownItems k xs := by
  induction as with
  | nil => rfl
  | cons a as ih => simp only [List.map_cons, List.cons_append, ownItems_cons_self, ih]

/-- Items of another instance in front of a list do not reach `k`. -/
theorem ownItems_map_append_of_ne (other : j ≠ k) (as : List α) (xs : List (Fin n × α)) :
    ownItems k (as.map (fun a => (j, a)) ++ xs) = ownItems k xs := by
  induction as with
  | nil => rfl
  | cons a as ih => rw [List.map_cons, List.cons_append, ownItems_cons_of_ne other, ih]

end

/-! ### Steps and runs of a system -/

section
variable {n : Nat} {k : Fin n} {e : Event} {sys : System n} {t : State}

/-- A step of instance `k` puts its next state in its place; every other place stands. -/
theorem stepAt_of_performEvent (event : performEvent e sys[k] = .next t) :
    stepAt k e sys = .next (sys.set k t) := by
  simp only [stepAt, event]

/-- The first step of a schedule at the front of its run: the response, if any, is that of instance `k`. -/
theorem runSystem_cons {rest : List (Fin n × Event)} {last : System n} {rs : List (Fin n × Byte)}
    (event : performEvent e sys[k] = .next t) (run : runSystem rest (sys.set k t) = .next (last, rs)) :
    runSystem ((k, e) :: rest) sys =
      .next (last, t.rsp.toList.map (fun d => (k, d)) ++ rs) := by
  simp [runSystem, stepAt_of_performEvent event, run]

end

/-- Settles O59, by induction on the schedule: a step of instance `j` is the first event of `j`'s own run,
and for every other instance it changes neither the state nor what belongs to it. -/
theorem interleavedInstancesAreIndependent : Obligations.InterleavedInstancesAreIndependent := by
  intro n sched
  induction sched with
  | nil => exact fun sys => ⟨sys, [], rfl, fun k => runEvents_nil sys[k]⟩
  | cons x sched ih =>
    intro sys
    obtain ⟨j, e⟩ := x
    obtain ⟨t, event, -⟩ := everyEventCompletesDeterministically e sys[j]
    obtain ⟨last, rs, run, alone⟩ := ih (sys.set j t)
    refine ⟨last, _, runSystem_cons event run, fun k => ?_⟩
    change runEvents (ownItems k ((j, e) :: sched)) sys[k] = .next (last[k], ownItems k (_ ++ rs))
    have rest : runEvents (ownItems k sched) (sys.set j t)[k] = .next (last[k], ownItems k rs) := alone k
    by_cases own : j = k
    · subst own
      have state : (sys.set j t)[j] = t := Vector.getElem_set_self j.isLt
      rw [state] at rest
      rw [ownItems_cons_self, ownItems_map_append_self]
      exact runEvents_cons event rest
    · have state : (sys.set j t)[k] = sys[k] :=
        Vector.getElem_set_ne j.isLt k.isLt (Fin.val_ne_of_ne own)
      rw [state] at rest
      rw [ownItems_cons_of_ne own, ownItems_map_append_of_ne own]
      exact rest

end Sys2Proof.Machine
end

section
/-! PROOFS. The hardware reset (spec 70_reset_and_hazards.md R160). -/

namespace Sys2Proof.Machine

/-- The initial value by one test of the kind (R19). -/
theorem initValue_eq_ite (P : Params) :
    initValue P = if P.alg = .crc8 then P.init else 0x00 := by
  cases kind : P.alg with
  | crc8 => exact initValue_of_crc8 kind
  | sum => exact initValue_of_sum kind
  | xor => exact initValue_of_xor kind

/-- `rst` has priority: no command port stands in the event (R44). -/
@[simp] theorem eventOf_rst (valid : Bool) (op : OpCode) (data : Byte) :
    eventOf { rst := true, cmdValid := valid, cmdOp := op, cmdData := data } = .hwReset := rfl

@[simp] theorem performEvent_hwReset (s : State) :
    performEvent .hwReset s = .next (loadInitial s) := rfl

/-- With no pending samples, what re-initialisation leaves is a fresh unit of the same parameters. -/
theorem loadInitial_present_nil (s : State) :
    loadInitial (present [] s) = State.fresh s.params := rfl

/-- Settles O5: the event is `HwReset` whatever the command ports carry, and `HwReset` loads the initial
value. -/
theorem hardwareResetLoadsInitialValue : Obligations.HardwareResetLoadsInitialValue := by
  refine fun valid op data s => ⟨?loads, ?fresh⟩
  case loads =>
    rw [eventOf_rst, performEvent_hwReset, ← initValue_eq_ite]
    rfl
  case fresh => rw [performEvent_hwReset, loadInitial_present_nil]

end Sys2Proof.Machine
end

section
/-! PROOFS. The response port (spec 30_encoding.md R48). -/

namespace Sys2Proof.Machine

/-- An invalid response shows nothing that could be wrong. -/
theorem rspIsDigest_of_rsp_none {s : State} (invalid : s.rsp = none) : RspIsDigest s := by
  intro d valid
  cases invalid.symm.trans valid

/-- A response with the digest of the register is true of the register it leaves, for `respond` writes
nothing else. -/
theorem rspIsDigest_respond_dig (s : State) : RspIsDigest (respond (dig s.params s.STATE) s) :=
  fun _ valid => (Option.some.inj valid).symm

/-- Every event leaves the port true, whatever stood on it before: DIGEST answers the register it
leaves alone, and no other event responds (R48). -/
theorem rspIsDigest_of_performEvent {e : Event} {s t : State} (event : performEvent e s = .next t) :
    RspIsDigest t := by
  rcases performEvent_cases e s with h | h | ⟨b, h⟩ | h <;> cases h.symm.trans event
  · exact rspIsDigest_of_rsp_none (loadInitial_rsp s)
  · exact rspIsDigest_of_rsp_none (noResponse_rsp s)
  · exact rspIsDigest_of_rsp_none (noResponse_rsp _)
  · exact rspIsDigest_respond_dig s

/-- Settles O46: a step performs an event, every event leaves the response port true, and its frame
keeps the parameters. The port need not have been true before the step. -/
theorem everyStepKeepsResponsePortTrue : Obligations.EveryStepKeepsResponsePortTrue := by
  intro s t _ stepped
  have event : performEvent (eventOf (presented s)) (consume s) = .next t := stepped
  exact ⟨rspIsDigest_of_performEvent event, (performEvent_frame event).1⟩

/-- Settles O47: a fresh unit has no response on its port, and `State.reset` is one. -/
theorem freshInstanceResponsePortTrue : Obligations.FreshInstanceResponsePortTrue :=
  ⟨rspIsDigest_of_rsp_none (fresh_rsp Config.resetParams),
    fun P => rspIsDigest_of_rsp_none (fresh_rsp P)⟩

/-- Settles O13: both sides are the numbers of `Config.resetParams`. -/
theorem resetStateOfTheModel : Obligations.ResetStateOfTheModel :=
  ⟨rfl, rfl⟩

end Sys2Proof.Machine
end

section
/-! PROOFS. A step on a presented word, and the decoder against the encoder (spec 30_encoding.md R40,
R44, R47, R53). -/

namespace Sys2Proof.Machine

/-! ### A step on a presented word -/

/-- A number within ten bits is read as its command word, and no other is read. -/
theorem decodeTableWord_eq_some_iff {n w : Nat} {i : Instr} :
    decodeTableWord n w = some i ↔ w < 1024 ∧ decode (BitVec.ofNat 10 w) = i := by
  simp [decodeTableWord]

/-- The step after `withFetchWord` performs the instruction of the word on the state before it: the
sample put in front is the one it takes. -/
theorem step_withFetchWord (n w : Nat) (s : State) :
    step (s.withFetchWord n w) = exec (decode (BitVec.ofNat 10 w)) s :=
  calc step (s.withFetchWord n w)
    _ = performEvent (eventOf (commandPins (BitVec.ofNat 10 w))) s := step_cons _ _ _
    _ = exec (decode (BitVec.ofNat 10 w)) s := by
      rw [eventOf_commandPins, performEvent, cmdWord_fields]

/-- Settles O9: the first sample of the list is taken, none is an idle one, and a word put in front is
decoded from its own fields. -/
theorem stepRunsThePresentedCommand : Obligations.StepRunsThePresentedCommand := by
  refine ⟨step_cons, fun op data => step_cons _, step_nil, fun n w i s read => ?word⟩
  case word => rw [step_withFetchWord, (decodeTableWord_eq_some_iff.1 read).2]

/-! ### Encoding and decoding -/

theorem encode_init : encode .init = cmdWord 0b00 0 := rfl

theorem encode_digest : encode .digest = cmdWord 0b10 0 := rfl

theorem encode_reset : encode .reset = cmdWord 0b11 0 := rfl

/-- The assembled word of an instruction is read back as the instruction (R45, R53). -/
@[simp] theorem decode_encode (i : Instr) : decode (encode i) = i := by
  cases i with
  | init => rw [encode_init, decode_op00]
  | update b => rw [encode_update, decode_op01]
  | digest => rw [encode_digest, decode_op10]
  | reset => rw [encode_reset, decode_op11]

/-- The table word of a command word's number is the command word itself. -/
theorem decodeTableWord_toNat (n : Nat) (w : CmdWord) :
    decodeTableWord n w.toNat = some (decode w) :=
  decodeTableWord_eq_some_iff.2 ⟨w.isLt, by rw [BitVec.ofNat_toNat, BitVec.setWidth_eq]⟩

/-- An encoded decoding is the word for UPDATE, and the word with its ignored data field cleared for the
other operation codes (R49, R52). -/
theorem encode_decode_cmdWord (op : OpCode) (d : Byte) :
    encode (decode (cmdWord op d)) = if op = 0b01 then cmdWord op d else cmdWord op 0 := by
  rcases opCode_cases op with rfl | rfl | rfl | rfl
  · rw [decode_op00, encode_init]; rfl
  · rw [decode_op01, encode_update]; rfl
  · rw [decode_op10, encode_digest]; rfl
  · rw [decode_op11, encode_reset]; rfl

/-- Settles O50: the decoder reads back each assembled word; the table word and the step decode that
same word, and the other way the operation code decides what is left of the data field. -/
theorem decodeInvertsEncode : Obligations.DecodeInvertsEncode := by
  refine ⟨fun i _ => ?roundTrip, fun w => ?back⟩
  case roundTrip =>
    have table : decodeTableWord 16 (encode i).toNat = some i := by
      rw [decodeTableWord_toNat, decode_encode]
    obtain ⟨-, -, -, stepOfTableWord⟩ := stepRunsThePresentedCommand
    exact ⟨decode_encode i, table, fun s => stepOfTableWord _ _ i s table⟩
  case back =>
    have fields := encode_decode_cmdWord (opField w) (dataField w)
    rwa [← cmdWord_and_mask (opField w) (dataField w), cmdWord_fields] at fields

/-- Settles O51: each word is put together from an operation code and a data byte. -/
theorem wordsOfTheOpcodeTable : Obligations.WordsOfTheOpcodeTable :=
  ⟨decode_op00 0x00, decode_op00 0xFF, decode_op01 0x31, decode_op01 0xFF,
    decode_op10 0x00, decode_op10 0xAB, decode_op11 0x00, decode_op11 0xFF⟩

end Sys2Proof.Machine
end

section
/-! PROOFS. Runs over port samples (spec 00_scope.md R5, R9; 60_exceptions.md R140). -/

namespace Sys2Proof.Machine

/-! ### No run stops -/

/-- Every step answers a next state: the event of the sample completes. -/
theorem exists_step (s : State) : ∃ t, step s = .next t := by
  obtain ⟨t, event, -⟩ := everyEventCompletesDeterministically (eventOf (presented s)) (consume s)
  exact ⟨t, event⟩

theorem core_run_succ {k : Nat} {s t : State} (stepped : step s = .next t) :
    Sys2Proof.core.run (k + 1) s = Sys2Proof.core.run k t := by
  have coreStep : Sys2Proof.core.step s = .next t := stepped
  simp only [Host.Core.run, coreStep]

/-- Settles O11, by induction on the number of steps: the first one completes. -/
theorem noRunEverStops : Obligations.NoRunEverStops := by
  intro k
  induction k with
  | zero => exact fun s => ⟨⟨s, rfl⟩, ⟨s, [], rfl⟩⟩
  | succ k ih =>
    intro s
    obtain ⟨t, stepped⟩ := exists_step s
    obtain ⟨⟨u, host⟩, ⟨v, rs, collecting⟩⟩ := ih t
    exact ⟨⟨u, (core_run_succ stepped).trans host⟩, ⟨v, _, runSteps_succ stepped collecting⟩⟩

/-! ### Samples and events -/

/-- What is still to be presented has no part in an event: it stands beside the next state. -/
theorem performEvent_present {e : Event} {s t : State} (event : performEvent e s = .next t)
    (ps : List Pins) : performEvent e (present ps s) = .next (present ps t) := by
  obtain ⟨v, r, answer⟩ := performEvent_uniform e s.params s.STATE
  cases (answer s rfl rfl).symm.trans event
  exact answer (present ps s) rfl rfl

@[simp] theorem runSteps_zero (s : State) : runSteps 0 s = .next (s, []) := rfl

/-- With nothing to be presented and no response on the port, every further step changes nothing. -/
theorem runSteps_idle (k : Nat) (s : State) :
    runSteps k (noResponse (present [] s)) = .next (noResponse (present [] s), []) := by
  induction k with
  | zero => rfl
  | succ k ih => exact runSteps_succ (step_nil _) ih

/-- The run of the samples' events is the run of as many steps, which hands its last state over to
whatever steps follow when the list is used up. -/
theorem runSteps_present (ps : List Pins) (s : State) :
    ∃ t rs, runEvents (ps.map eventOf) s = .next (t, rs) ∧
      ∀ k u qs, runSteps k (present [] t) = .next (u, qs) →
        runSteps (ps.length + k) (present ps s) = .next (u, rs ++ qs) := by
  induction ps generalizing s with
  | nil => exact ⟨s, [], rfl, fun k u qs after => by rwa [List.length_nil, Nat.zero_add]⟩
  | cons p ps ih =>
    obtain ⟨t, event, -⟩ := everyEventCompletesDeterministically (eventOf p) s
    obtain ⟨u, rs, events, steps⟩ := ih t
    refine ⟨u, _, runEvents_cons event events, fun k v qs after => ?_⟩
    have stepped : step (present (p :: ps) s) = .next (present ps t) := performEvent_present event ps
    have response : (present ps t).rsp = t.rsp := rfl
    rw [List.length_cons, Nat.add_right_comm, List.append_assoc, ← response]
    exact runSteps_succ stepped (steps k v qs after)

/-- Settles O10: after the samples no step follows, or the idle ones. -/
theorem stepsFollowThePresentedEvents : Obligations.StepsFollowThePresentedEvents := by
  intro ps s
  obtain ⟨t, rs, events, steps⟩ := runSteps_present ps s
  refine ⟨t, rs, events, ?samples, fun k => ?after⟩
  case samples => simpa using steps 0 _ _ (runSteps_zero _)
  case after =>
    have idle : runSteps (k + 1) (present [] t) = .next ({ present [] t with rsp := none }, []) :=
      runSteps_succ (step_nil _) (runSteps_idle k t)
    simpa using steps _ _ _ idle

end Sys2Proof.Machine
end

section
/-! PROOFS. Bit reversal is an additive involution, and the digest is a bijection (spec
41_crc8_engine.md R81, R85). -/

namespace Sys2Proof.Machine

/-! ### Bit reversal -/

/-- Reversing the bits twice gives the byte again: bit `i` goes to `7 - i` and back (R81). -/
@[simp] theorem reflect8_reflect8 (v : Byte) : reflect8 (reflect8 v) = v := by
  refine BitVec.eq_of_getLsbD_eq fun i lt => ?_
  rw [getLsbD_reflect8 _ lt, getLsbD_reflect8 _ (by omega), Nat.sub_sub_self (by omega)]

theorem reflect8_involutive : Function.Involutive reflect8 := reflect8_reflect8

/-- Reversal distributes over XOR: it only moves bits (R81). -/
theorem reflect8_xor (a b : Byte) : reflect8 (a ^^^ b) = reflect8 a ^^^ reflect8 b := by
  refine BitVec.eq_of_getLsbD_eq fun i lt => ?_
  rw [BitVec.getLsbD_xor, getLsbD_reflect8 _ lt, getLsbD_reflect8 _ lt, getLsbD_reflect8 _ lt,
    BitVec.getLsbD_xor]

/-- Settles O21: reversal is an additive involution; the sixteen bytes and the examples by
evaluation. -/
theorem reflectIsAnInvolution : Obligations.ReflectIsAnInvolution :=
  ⟨reflect8_reflect8, reflect8_involutive.bijective, reflect8_xor, by decide +kernel, by decide,
    by decide, by decide, by decide⟩

/-! ### The digest -/

@[simp] theorem reflectIf_reflectIf (flag : Bool) (v : Byte) :
    reflectIf flag (reflectIf flag v) = v := by
  cases flag with
  | false => rfl
  | true => exact reflect8_reflect8 v

/-- The register is recovered from the digest: XOR first, then reflect (R85). -/
theorem reflectIf_crcDigest_xor (c : CrcParams) (s : Byte) :
    reflectIf c.refout (crcDigest c s ^^^ c.xorout) = s := by
  rw [crcDigest, BitVec.xor_assoc, BitVec.xor_self, BitVec.xor_zero, reflectIf_reflectIf]

/-- Every byte is the digest of the register so recovered (R85). -/
theorem crcDigest_reflectIf_xor (c : CrcParams) (d : Byte) :
    crcDigest c (reflectIf c.refout (d ^^^ c.xorout)) = d := by
  rw [crcDigest, reflectIf_reflectIf, BitVec.xor_assoc, BitVec.xor_self, BitVec.xor_zero]

/-- Settles O26: recovering the register is the inverse of the digest on both sides. -/
theorem crcDigestIsInvertible : Obligations.CrcDigestIsInvertible := by
  refine fun c => ⟨Function.bijective_iff_has_inverse.2
    ⟨fun d => reflectIf c.refout (d ^^^ c.xorout), reflectIf_crcDigest_xor c,
      crcDigest_reflectIf_xor c⟩, fun s d digest => ?recovered⟩
  case recovered =>
    subst digest
    exact (reflectIf_crcDigest_xor c s).symm

end Sys2Proof.Machine
end

section
/-! PROOFS. The shift step over XOR, and what follows for UPDATE (spec 41_crc8_engine.md R82 to R84,
R90). -/

namespace Sys2Proof.Machine

/-! ### One shift step -/

/-- What the shift step XORs in for the bit that is shifted out (R82). -/
def feedback (poly : Byte) (out : Bool) : Byte := if out then poly else 0#8

theorem crcShift_eq (poly r : Byte) : crcShift poly r = shl1 r ^^^ feedback poly (r.getLsbD 7) := by
  rw [crcShift, feedback]
  cases r.getLsbD 7 with
  | false => exact BitVec.xor_zero.symm
  | true => rfl

theorem feedback_xor (poly : Byte) (a b : Bool) :
    feedback poly (a ^^ b) = feedback poly a ^^^ feedback poly b := by
  cases a <;> cases b <;> simp [feedback]

theorem feedback_zero (out : Bool) : feedback 0#8 out = 0#8 := ite_self _

theorem getLsbD_feedback (poly : Byte) (out : Bool) (i : Nat) :
    (feedback poly out).getLsbD i = (out && poly.getLsbD i) := by
  cases out <;> simp [feedback]

theorem shl1_xor (a b : Byte) : shl1 (a ^^^ b) = shl1 a ^^^ shl1 b :=
  BitVec.shiftLeft_xor_distrib a b 1

theorem getLsbD_shl1_zero (r : Byte) : (shl1 r).getLsbD 0 = false := by
  simp [shl1]

theorem getLsbD_shl1_succ (r : Byte) {i : Nat} (lt : i < 7) :
    (shl1 r).getLsbD (i + 1) = r.getLsbD i := by
  rw [shl1, BitVec.getLsbD_shiftLeft, decide_eq_true (by omega : i + 1 < 8)]
  simp

/-- The shift step distributes over XOR (R90). -/
theorem crcShift_xor (poly : Byte) :
    Function.Semiconj₂ (crcShift poly) (· ^^^ ·) (· ^^^ ·) := by
  intro a b
  simp only [crcShift_eq, shl1_xor, BitVec.getLsbD_xor, feedback_xor]
  ac_rfl

/-- A register of 0 stays 0 under every polynomial: no bit is shifted out (R84 (a)). -/
@[simp] theorem crcShift_zero (poly : Byte) : crcShift poly 0#8 = 0#8 := rfl

/-- The lowest bit after a shift step is fed back alone (R82). -/
theorem getLsbD_zero_crcShift (poly r : Byte) :
    (crcShift poly r).getLsbD 0 = (r.getLsbD 7 && poly.getLsbD 0) := by
  rw [crcShift_eq, BitVec.getLsbD_xor, getLsbD_shl1_zero, getLsbD_feedback, Bool.false_xor]

/-! ### Eight shift steps and UPDATE -/

theorem crcShift8_xor (poly a b : Byte) :
    crcShift8 poly (a ^^^ b) = crcShift8 poly a ^^^ crcShift8 poly b :=
  (crcShift_xor poly).iterate 8 a b

@[simp] theorem crcShift8_zero (poly : Byte) : crcShift8 poly 0#8 = 0#8 :=
  Function.iterate_fixed (crcShift_zero poly) 8

theorem iterate_shl1 (n : Nat) (r : Byte) : shl1^[n] r = r <<< n := by
  induction n with
  | zero => rw [Function.iterate_zero_apply, BitVec.shiftLeft_zero]
  | succ n ih => rw [Function.iterate_succ_apply', ih, shl1, BitVec.shiftLeft_add]

/-- With polynomial 0 nothing is fed back, and eight shifts leave no bit (R84 (c)). -/
theorem crcShift8_zero_poly (r : Byte) : crcShift8 0#8 r = 0#8 := by
  have shift : crcShift 0#8 = shl1 := by
    funext r
    rw [crcShift_eq, feedback_zero, BitVec.xor_zero]
  rw [crcShift8, shift, iterate_shl1]
  exact BitVec.shiftLeft_eq_zero le_rfl

@[simp] theorem reflectIf_zero (flag : Bool) : reflectIf flag 0#8 = 0#8 := by
  revert flag; decide

@[simp] theorem reflectIf_allOnes (flag : Bool) : reflectIf flag 0xFF = 0xFF := by
  revert flag; decide

/-- Where the byte cancels the register, UPDATE leaves 0 (R84 (b)). -/
theorem crcUpdate_eq_zero {c : CrcParams} {s b : Byte} (cancels : s ^^^ reflectIf c.refin b = 0#8) :
    crcUpdate c s b = 0#8 := by
  rw [crcUpdate, cancels, crcShift8_zero]

/-- A byte that reflection leaves alone cancels the register of the same value (R84 (b)). -/
theorem crcUpdate_self {c : CrcParams} {b : Byte} (fixed : reflectIf c.refin b = b) :
    crcUpdate c b b = 0#8 :=
  crcUpdate_eq_zero (by rw [fixed, BitVec.xor_self])

/-- UPDATE with the byte 0 only shifts (R84 (a)). -/
theorem crcUpdate_zero_byte (c : CrcParams) (s : Byte) : crcUpdate c s 0#8 = crcShift8 c.poly s := by
  rw [crcUpdate, reflectIf_zero, BitVec.xor_zero]

/-- Settles O24: cases (a) to (c) by what is shifted, (d) and (e) by the numbers `crcUpdate` reads. -/
theorem crcUpdateCornerCases : Obligations.CrcUpdateCornerCases :=
  fun c s _ => ⟨crcUpdate_zero_byte c s, crcUpdate_self (reflectIf_zero _), crcUpdate_eq_zero,
    crcUpdate_self (reflectIf_allOnes _), crcShift8_zero_poly _, rfl, fun _ _ _ => rfl⟩

/-! ### Odd polynomials -/

/-- Under an odd polynomial only the register 0 goes to 0: a bit shifted out would be seen in the
lowest bit (R90). -/
theorem eq_zero_of_crcShift_eq_zero {poly r : Byte} (odd : poly.getLsbD 0 = true)
    (zero : crcShift poly r = 0#8) : r = 0#8 := by
  have out : r.getLsbD 7 = false := by
    have lowest := getLsbD_zero_crcShift poly r
    rw [zero, odd, Bool.and_true] at lowest
    exact lowest.symm
  have shifted : shl1 r = 0#8 := by
    rwa [crcShift_eq, out, feedback, if_neg nofun, BitVec.xor_zero] at zero
  refine BitVec.eq_of_getLsbD_eq fun i lt => ?_
  rw [BitVec.getLsbD_zero]
  rcases Nat.lt_succ_iff_lt_or_eq.1 lt with below | rfl
  · rw [← getLsbD_shl1_succ r below, shifted, BitVec.getLsbD_zero]
  · exact out

theorem crcShift_injective {poly : Byte} (odd : poly.getLsbD 0 = true) :
    Function.Injective (crcShift poly) := by
  intro a b same
  have zero : crcShift poly (a ^^^ b) = 0#8 := by
    calc crcShift poly (a ^^^ b)
      _ = crcShift poly a ^^^ crcShift poly b := crcShift_xor poly a b
      _ = 0#8 := by rw [same, BitVec.xor_self]
  exact BitVec.xor_eq_zero_iff.1 (eq_zero_of_crcShift_eq_zero odd zero)

/-- Eight shift steps permute the bytes exactly under an odd polynomial: an even one never sets the
lowest bit (R90). -/
theorem crcShift8_bijective_iff (poly : Byte) :
    Function.Bijective (crcShift8 poly) ↔ poly.getLsbD 0 = true := by
  refine ⟨fun bijective => ?odd, fun odd => ?bijective⟩
  case odd =>
    obtain ⟨r, one⟩ := bijective.surjective 0x01
    have lowest := getLsbD_zero_crcShift poly ((crcShift poly)^[7] r)
    rw [← Function.iterate_succ_apply' (crcShift poly), ← crcShift8, one] at lowest
    exact (Bool.and_eq_true_iff.1 lowest.symm).2
  case bijective => exact Finite.injective_iff_bijective.1 ((crcShift_injective odd).iterate 8)

/-- Settles O30: the shift step distributes over XOR, and so do eight of them. -/
theorem shiftingIsLinearAndBijectiveForOddPoly :
    Obligations.ShiftingIsLinearAndBijectiveForOddPoly :=
  ⟨crcShift8_xor, crcShift8_zero, fun c s _ => crcShift8_xor c.poly s _, crcShift8_bijective_iff⟩

end Sys2Proof.Machine
end

section
/-! PROOFS. The lookup table and the right-shifting form (spec 41_crc8_engine.md R88, R89, R91). -/

namespace Sys2Proof.Machine

/-! ### The lookup table -/

@[simp] theorem length_crcTable (poly : Byte) : (crcTable poly).length = 256 := by
  simp [crcTable]

/-- Each entry of the table is the eight shift steps of its index (R88). -/
theorem getElem?_crcTable (poly : Byte) {i : Nat} (lt : i < 256) :
    (crcTable poly)[i]? = some (crcShift8 poly (BitVec.ofNat 8 i)) := by
  simp [crcTable, lt]

/-- From 01 the eighth shift alone shifts a bit out, and leaves the polynomial (R88). -/
theorem crcShift8_one (poly : Byte) : crcShift8 poly 0x01 = poly :=
  calc crcShift8 poly 0x01
    _ = crcShift poly ((crcShift poly)^[7] 0x01) := Function.iterate_succ_apply' _ 7 _
    _ = crcShift poly 0x80 := by simp [crcShift, shl1]
    _ = 0#8 ^^^ poly := rfl
    _ = poly := BitVec.zero_xor

/-- One lookup answers the eight shift steps of the byte looked up (R89). -/
theorem crcUpdateByTable_eq (c : CrcParams) (s b : Byte) :
    crcUpdateByTable c s b = crcUpdate c s b := by
  rw [crcUpdateByTable, List.getD_eq_getElem?_getD, getElem?_crcTable _ (BitVec.isLt _),
    Option.getD_some, BitVec.ofNat_toNat, BitVec.setWidth_eq, crcUpdate]

/-- Settles O29: every entry by `getElem?_crcTable`, the printed ones by evaluation. -/
theorem tableLookupEqualsBitLevelUpdate : Obligations.TableLookupEqualsBitLevelUpdate := by
  refine ⟨fun poly => ⟨length_crcTable poly, fun i => getElem?_crcTable poly i.isLt, ?zero, ?one⟩,
    ?sixteen, getElem?_crcTable 0x07 (by decide), getElem?_crcTable 0x07 (by decide),
    crcUpdateByTable_eq⟩
  case zero => exact (getElem?_crcTable poly (by decide)).trans (congrArg some (crcShift8_zero poly))
  case one => exact (getElem?_crcTable poly (by decide)).trans (congrArg some (crcShift8_one poly))
  case sixteen => decide +kernel

/-! ### The right-shifting form -/

/-- Reversal turns the left shift into the right shift. -/
theorem reflect8_shl1 (r : Byte) : reflect8 (shl1 r) = reflect8 r >>> 1 := by
  refine BitVec.eq_of_getLsbD_eq fun i lt => ?_
  rw [getLsbD_reflect8 _ lt, BitVec.getLsbD_ushiftRight]
  rcases Nat.lt_succ_iff_lt_or_eq.1 lt with below | rfl
  · rw [getLsbD_reflect8 _ (by omega), ← getLsbD_shl1_succ r (by omega)]
    congr 1
    omega
  · rw [getLsbD_shl1_zero, BitVec.getLsbD_of_ge _ _ (by omega)]

/-- Reversal carries each shift step into one of the right-shifting form (R91). -/
theorem reflect8_semiconj_crcShift (poly : Byte) :
    Function.Semiconj reflect8 (crcShift poly) (crcShiftRight poly) := by
  intro r
  have out : (reflect8 r).getLsbD 0 = r.getLsbD 7 := getLsbD_reflect8 r (by decide)
  rw [crcShift, crcShiftRight, out, apply_ite reflect8, reflect8_xor, reflect8_shl1]

/-- One UPDATE on the reversed register is the reversal of UPDATE with REFIN set (R91). -/
theorem crcUpdateRight_reflect8 (c : CrcParams) (s b : Byte) :
    crcUpdateRight c.poly (reflect8 s) b = reflect8 (crcUpdate { c with refin := true } s b) :=
  calc (crcShiftRight c.poly)^[8] (reflect8 s ^^^ b)
    _ = (crcShiftRight c.poly)^[8] (reflect8 (s ^^^ reflect8 b)) := by
      rw [reflect8_xor, reflect8_reflect8]
    _ = reflect8 (crcShift8 c.poly (s ^^^ reflect8 b)) :=
      ((reflect8_semiconj_crcShift c.poly).iterate_right 8 _).symm

/-- Settles O31: reversal carries UPDATE into the right-shifting one, and so the whole fold. -/
theorem rightShiftingFormIsEquivalent : Obligations.RightShiftingFormIsEquivalent := by
  refine ⟨crcUpdateRight_reflect8, fun c S => ?sequence⟩
  case sequence =>
    rw [List.foldl_hom reflect8 (crcUpdateRight_reflect8 c)]
    rfl

end Sys2Proof.Machine
end

section
/-! PROOFS. What the SUM and XOR accumulators answer of a sequence (spec 43_accumulators.md R123, R126,
R128). -/

namespace Sys2Proof.Machine

/-- A fresh unit answers the UPDATEs of a sequence and a DIGEST with the checksum of the sequence
(R69). -/
theorem runEvents_updates_digestCmd_fresh (P : Params) (S : List Byte) :
    ∃ t, runEvents (updates S ++ [digestCmd]) (State.fresh P) = .next (t, [checksum P S]) :=
  ⟨_, runEvents_updates_digestCmd S (State.fresh P)⟩

/-- The checksum of an accumulator is the fold from 0, as it stands (R120). -/
theorem checksum_of_accumulator {a : Alg} (accumulator : a = .sum ∨ a = .xor) (c : CrcParams)
    (S : List Byte) : checksum { c with alg := a } S = foldUpd { c with alg := a } 0#8 S := by
  rw [checksum, dig_of_accumulator accumulator, initValue_of_accumulator accumulator]
  rfl

/-! ### The sum -/

/-- Over a sequence the register of a SUM unit grows by the sum of the bytes modulo 256 (R123). -/
theorem toNat_foldUpd_of_sum {P : Params} (h : P.alg = .sum) (v : Byte) (S : List Byte) :
    (foldUpd P v S).toNat = (v.toNat + (S.map BitVec.toNat).sum) % 256 := by
  induction S generalizing v with
  | nil => exact (Nat.mod_eq_of_lt v.isLt).symm
  | cons b S ih =>
    rw [foldUpd_cons, ih, upd_of_sum h, BitVec.toNat_add, Nat.mod_add_mod, List.map_cons,
      List.sum_cons, Nat.add_assoc]

theorem checksum_of_sum (c : CrcParams) (S : List Byte) :
    checksum { c with alg := .sum } S = BitVec.ofNat 8 ((S.map BitVec.toNat).sum % 256) := by
  apply BitVec.eq_of_toNat_eq
  rw [checksum_of_accumulator (.inl rfl), toNat_foldUpd_of_sum rfl, BitVec.toNat_zero, Nat.zero_add,
    BitVec.toNat_ofNat, Nat.mod_mod]

/-- Settles O34: the run answers the checksum, and the checksum is the sum modulo 256. -/
theorem runAnswersTheSumOfTheSequence : Obligations.RunAnswersTheSumOfTheSequence := by
  refine fun c => ⟨fun S => ?run, checksum_of_sum c [], checksum_of_sum c [0x01, 0x02, 0x03],
    checksum_of_sum c msg9⟩
  case run =>
    rw [← checksum_of_sum c]
    exact runEvents_updates_digestCmd_fresh _ S

/-! ### The XOR -/

/-- One more turns the parity of a count over. -/
theorem add_one_mod_two_beq_one (n : Nat) : ((n + 1) % 2 == 1) = !(n % 2 == 1) := by
  rcases Nat.mod_two_eq_zero_or_one n with even | odd
  · simp [Nat.add_mod, even]
  · simp [Nat.add_mod, odd]

/-- Over a sequence a bit of an XOR unit is flipped as often as it is set in a byte (R126). -/
theorem getLsbD_foldUpd_of_xor {P : Params} (h : P.alg = .xor) (v : Byte) (S : List Byte) (i : Nat) :
    (foldUpd P v S).getLsbD i =
      (v.getLsbD i != (S.countP (fun b => b.getLsbD i) % 2 == 1)) := by
  induction S generalizing v with
  | nil => exact (Bool.bne_false _).symm
  | cons b S ih =>
    rw [foldUpd_cons, ih, getLsbD_upd_of_xor h, Bool.bne_assoc, List.countP_cons]
    cases b.getLsbD i with
    | false => rw [Bool.false_bne, if_neg nofun, Nat.add_zero]
    | true => rw [Bool.true_bne, if_pos rfl, add_one_mod_two_beq_one]

/-- The checksum of an XOR unit is the XOR of the bytes (R126). -/
theorem checksum_of_xor (c : CrcParams) (S : List Byte) :
    checksum { c with alg := .xor } S = S.foldl (· ^^^ ·) 0#8 := by
  rw [checksum_of_accumulator (.inr rfl), foldUpd_eq_foldl]
  congr 1

/-- Settles O35: the run answers the checksum, whose bits are the parities; the examples by
evaluation. -/
theorem runAnswersTheXorOfTheSequence : Obligations.RunAnswersTheXorOfTheSequence := by
  refine fun c => ⟨fun S => ?run, checksum_of_xor c [],
    (checksum_of_xor c [0x01, 0x02, 0x03]).trans (by decide),
    (checksum_of_xor c msg9).trans (by decide)⟩
  case run =>
    obtain ⟨t, run⟩ := runEvents_updates_digestCmd_fresh { c with alg := .xor } S
    refine ⟨t, _, run, fun i => ?parity⟩
    rw [checksum_of_accumulator (.inr rfl), getLsbD_foldUpd_of_xor rfl,
      BitVec.getLsbD_zero, Bool.false_bne]

/-! ### The order of the bytes -/

theorem rightCommutative_upd_of_sum {P : Params} (h : P.alg = .sum) : RightCommutative (upd P) where
  right_comm v b b' := by simp only [upd_of_sum h, BitVec.add_assoc, BitVec.add_comm b b']

/-- Settles O37: both runs end as the fold says, and the fold of the sum ignores the order; the CRC-8 of
two bytes by evaluation. -/
theorem sumChecksumIgnoresByteOrder : Obligations.SumChecksumIgnoresByteOrder := by
  refine ⟨fun c s S S' perm => ⟨_, _, _, _, runEvents_updates_digestCmd S _,
    runEvents_updates_digestCmd S' _, ?sameFold⟩, by decide +kernel, by decide +kernel⟩
  case sameFold =>
    rw [foldUpd_perm (rightCommutative_upd_of_sum rfl) perm]
    exact ⟨rfl, rfl⟩

end Sys2Proof.Machine
end

section
/-! PROOFS. A unit forgets its past (spec 10_state.md section 3; 40_interface_ops.md R72;
70_reset_and_hazards.md R161, R162). -/

namespace Sys2Proof.Machine

/-- The three re-initialisations load the initial value, whatever data byte stands beside the command
(R64, R67; 70_reset_and_hazards.md R160). -/
theorem performEvent_of_reinitialisation {e : Event} {data : Byte}
    (reinitialises : e = .hwReset ∨ e = .cmd 0b00 data ∨ e = .cmd 0b11 data) (s : State) :
    performEvent e s = .next (loadInitial s) := by
  rcases reinitialises with rfl | rfl | rfl
  · exact performEvent_hwReset s
  · exact performEvent_op00 data s
  · exact performEvent_op11 data s

/-- A run from a fresh unit that ends in a re-initialisation ends in the fresh unit again: the run kept
the parameters, and there was nothing to be presented (R72). -/
theorem runEvents_fresh_reinitialised {e : Event}
    (reinitialises : ∀ s, performEvent e s = .next (loadInitial s)) (P : Params) (es : List Event) :
    ∃ rs, runEvents (es ++ [e]) (State.fresh P) = .next (State.fresh P, rs) := by
  obtain ⟨t, run, holds, inputs⟩ := (holdsBytes_fresh P).after_runEvents es
  have fresh : loadInitial t = State.fresh P :=
    calc loadInitial t
      _ = loadInitial (present t.inputs t) := rfl
      _ = loadInitial (present [] t) := by rw [inputs, fresh_inputs]
      _ = State.fresh P := by rw [loadInitial_present_nil, holds.params]
  have event : performEvent e t = .next (State.fresh P) := by rw [reinitialises, fresh]
  exact ⟨_, runEvents_append run (runEvents_cons event (runEvents_nil _))⟩

/-- Settles O43: the run is back at the fresh unit, and what follows is a run from there. -/
theorem reinitialisingRestoresAFreshInstance : Obligations.ReinitialisingRestoresAFreshInstance := by
  intro P es later e data reinitialises
  obtain ⟨rs, restored⟩ :=
    runEvents_fresh_reinitialised (performEvent_of_reinitialisation reinitialises) P es
  obtain ⟨t, qs, after, -⟩ := nothingChangesTheParameters later (State.fresh P)
  exact ⟨rs, t, qs, restored, after, runEvents_append restored after⟩

/-- Settles O45: the two units hold the same register and keep it side by side, under one
configuration. -/
theorem sameRegisterSameFuture : Obligations.SameRegisterSameFuture := by
  intro es s s' params register
  have same : SameRegister s.params s.params s s' := ⟨rfl, params, register⟩
  have alike : MovesAlike id s.params s.params := ⟨rfl, fun _ _ => rfl⟩
  obtain ⟨t, t', rs, rs', run, run', last, responses⟩ := same.after_runEvents alike es
  rw [List.map_congr_left fun e _ => mapData_id e, List.map_id', responses rfl] at run'
  exact ⟨t, t', rs, run, run', last⟩

end Sys2Proof.Machine
end
